-- ==== Sys2Proof/Word.lean ====
section
/-! DEFINITION. The word types of DQA and their plainest arithmetic (spec 00_scope.md R6 to R8). -/

namespace Sys2Proof

/-- A u32 of R7: a coefficient, a scalar register, a command word or a port word (R5 row W). -/
abbrev Word := BitVec 32

/-- A u64 of R7: the input of `montgomery_reduce` (R5 row W2). -/
abbrev DWord := BitVec 64

/-- A byte address on the host port (R5 row ADDR_W, R30). -/
abbrev Addr := BitVec 16

/-- `wrap32` of an integer (R7): the remainder modulo 2^32, never negative. -/
def wrap32 (v : Int) : Word := BitVec.ofInt 32 v

/-- The exact product of two u32 values, which fits in 64 bits (R63). -/
def wideMul (a b : Word) : DWord := a.setWidth 64 * b.setWidth 64

end Sys2Proof
end

