-- ==== Sys2Proof/Config.lean ====
section
/-! DEFINITION. What one build of DQA fixes (spec 00_scope.md R5), the two twiddle ROMs (42_ntt.md R86, R87)
and the one value the spec leaves unspecified (10_state.md R16). -/

namespace Sys2Proof.Config

/-- Rows of the table of R86: entries 0 to 63. -/
def zetasPart0 : List Word :=
  [0, 25847, 5771523, 7861508, 237124, 7602457, 7504169, 466468,
   1826347, 2353451, 8021166, 6288512, 3119733, 5495562, 3111497, 2680103,
   2725464, 1024112, 7300517, 3585928, 7830929, 7260833, 2619752, 6271868,
   6262231, 4520680, 6980856, 5102745, 1757237, 8360995, 4010497, 280005,
   2706023, 95776, 3077325, 3530437, 6718724, 4788269, 5842901, 3915439,
   4519302, 5336701, 3574422, 5512770, 3539968, 8079950, 2348700, 7841118,
   6681150, 6736599, 3505694, 4558682, 3507263, 6239768, 6779997, 3699596,
   811944, 531354, 954230, 3881043, 3900724, 5823537, 2071892, 5582638]

/-- Rows of the table of R86: entries 64 to 127. -/
def zetasPart1 : List Word :=
  [4450022, 6851714, 4702672, 5339162, 6927966, 3475950, 2176455, 6795196,
   7122806, 1939314, 4296819, 7380215, 5190273, 5223087, 4747489, 126922,
   3412210, 7396998, 2147896, 2715295, 5412772, 4686924, 7969390, 5903370,
   7709315, 7151892, 8357436, 7072248, 7998430, 1349076, 1852771, 6949987,
   5037034, 264944, 508951, 3097992, 44288, 7280319, 904516, 3958618,
   4656075, 8371839, 1653064, 5130689, 2389356, 8169440, 759969, 7063561,
   189548, 4827145, 3159746, 6529015, 5971092, 8202977, 1315589, 1341330,
   1285669, 6795489, 7567685, 6940675, 5361315, 4499357, 4751448, 3839961]

/-- Rows of the table of R86: entries 128 to 191. -/
def zetasPart2 : List Word :=
  [2091667, 3407706, 2316500, 3817976, 5037939, 2244091, 5933984, 4817955,
   266997, 2434439, 7144689, 3513181, 4860065, 4621053, 7183191, 5187039,
   900702, 1859098, 909542, 819034, 495491, 6767243, 8337157, 7857917,
   7725090, 5257975, 2031748, 3207046, 4823422, 7855319, 7611795, 4784579,
   342297, 286988, 5942594, 4108315, 3437287, 5038140, 1735879, 203044,
   2842341, 2691481, 5790267, 1265009, 4055324, 1247620, 2486353, 1595974,
   4613401, 1250494, 2635921, 4832145, 5386378, 1869119, 1903435, 7329447,
   7047359, 1237275, 5062207, 6950192, 7929317, 1312455, 3306115, 6417775]

/-- Rows of the table of R86: entries 192 to 255. -/
def zetasPart3 : List Word :=
  [7100756, 1917081, 5834105, 7005614, 1500165, 777191, 2235880, 3406031,
   7838005, 5548557, 6709241, 6533464, 5796124, 4656147, 594136, 4603424,
   6366809, 2432395, 2454455, 8215696, 1957272, 3369112, 185531, 7173032,
   5196991, 162844, 1616392, 3014001, 810149, 1652634, 4686184, 6581310,
   5341501, 3523897, 3866901, 269760, 2213111, 7404533, 1717735, 472078,
   7953734, 1723600, 6577327, 1910376, 6712985, 7276084, 8119771, 4546524,
   5441381, 6144432, 7959518, 6094090, 183443, 7403526, 1612842, 4834730,
   7826001, 3919660, 8332111, 7018208, 3937738, 1400424, 7534263, 1976782]

/-- Rows of the table of R87: entries 0 to 63. -/
def zetasInvPart0 : List Word :=
  [6403635, 846154, 6979993, 4442679, 1362209, 48306, 4460757, 554416,
   3545687, 6767575, 976891, 8196974, 2286327, 420899, 2235985, 2939036,
   3833893, 260646, 1104333, 1667432, 6470041, 1803090, 6656817, 426683,
   7908339, 6662682, 975884, 6167306, 8110657, 4513516, 4856520, 3038916,
   1799107, 3694233, 6727783, 7570268, 5366416, 6764025, 8217573, 3183426,
   1207385, 8194886, 5011305, 6423145, 164721, 5925962, 5948022, 2013608,
   3776993, 7786281, 3724270, 2584293, 1846953, 1671176, 2831860, 542412,
   4974386, 6144537, 7603226, 6880252, 1374803, 2546312, 6463336, 1279661]

/-- Rows of the table of R87: entries 64 to 127. -/
def zetasInvPart1 : List Word :=
  [1962642, 5074302, 7067962, 451100, 1430225, 3318210, 7143142, 1333058,
   1050970, 6476982, 6511298, 2994039, 3548272, 5744496, 7129923, 3767016,
   6784443, 5894064, 7132797, 4325093, 7115408, 2590150, 5688936, 5538076,
   8177373, 6644538, 3342277, 4943130, 4272102, 2437823, 8093429, 8038120,
   3595838, 768622, 525098, 3556995, 5173371, 6348669, 3122442, 655327,
   522500, 43260, 1613174, 7884926, 7561383, 7470875, 6521319, 7479715,
   3193378, 1197226, 3759364, 3520352, 4867236, 1235728, 5945978, 8113420,
   3562462, 2446433, 6136326, 3342478, 4562441, 6063917, 4972711, 6288750]

/-- Rows of the table of R87: entries 128 to 191. -/
def zetasInvPart2 : List Word :=
  [4540456, 3628969, 3881060, 3019102, 1439742, 812732, 1584928, 7094748,
   7039087, 7064828, 177440, 2409325, 1851402, 5220671, 3553272, 8190869,
   1316856, 7620448, 210977, 5991061, 3249728, 6727353, 8578, 3724342,
   4421799, 7475901, 1100098, 8336129, 5282425, 7871466, 8115473, 3343383,
   1430430, 6527646, 7031341, 381987, 1308169, 22981, 1228525, 671102,
   2477047, 411027, 3693493, 2967645, 5665122, 6232521, 983419, 4968207,
   8253495, 3632928, 3157330, 3190144, 1000202, 4083598, 6441103, 1257611,
   1585221, 6203962, 4904467, 1452451, 3041255, 3677745, 1528703, 3930395]

/-- Rows of the table of R87: entries 192 to 254. -/
def zetasInvPart3 : List Word :=
  [2797779, 6308525, 2556880, 4479693, 4499374, 7426187, 7849063, 7568473,
   4680821, 1600420, 2140649, 4873154, 3821735, 4874723, 1643818, 1699267,
   539299, 6031717, 300467, 4840449, 2867647, 4805995, 3043716, 3861115,
   4464978, 2537516, 3592148, 1661693, 4849980, 5303092, 8284641, 5674394,
   8100412, 4369920, 19422, 6623180, 3277672, 1399561, 3859737, 2118186,
   2108549, 5760665, 1119584, 549488, 4794489, 1079900, 7356305, 5654953,
   5700314, 5268920, 2884855, 5260684, 2091905, 359251, 6026966, 6554070,
   7913949, 876248, 777960, 8143293, 518909, 2608894, 8354570]

/-- The rows of R5 that the spec marks `gk` (from general knowledge, 93 entries G1 to G5 and G12), each a field whose
default is the value R5 shows. The ROM contents are the tables printed in R86 and R87. Assumption log entry 12
(PRESUMED by the spec itself, unsafe). -/
structure Parameters where
  /-- D, the number of dropped bits of `power2round` (G1). -/
  d : Nat := 14
  /-- QBITS (G12); no rule uses it. -/
  qbits : Nat := 23
  /-- ROOT, the primitive 512-th root of unity modulo Q (G2); only the meaning of the ROM tables uses it. -/
  root : Nat := 1753
  /-- ZETAS, the 256-entry forward twiddle ROM (R86, G3). -/
  zetas : List Word := zetasPart0 ++ zetasPart1 ++ zetasPart2 ++ zetasPart3
  /-- ZETAS_INV, the 255-entry inverse twiddle ROM (R87, G3). -/
  zetasInv : List Word := zetasInvPart0 ++ zetasInvPart1 ++ zetasInvPart2 ++ zetasInvPart3
  /-- F_INV, the final scaling constant of the inverse transform (R88, G4). -/
  fInv : Word := 41978
  /-- INV_OFFSET = 256·Q, the offset of the inverse butterfly (G5). -/
  invOffset : Word := 2145386752
  deriving DecidableEq, Repr

/-- The parameters of the chip this model is of: every `gk` row at the default of R5. -/
def parameters : Parameters := {}

/-- N, the number of coefficients of a polynomial (R5). -/
def N : Nat := 256
/-- Q = 2^23 − 2^13 + 1 (R5). -/
def Q : Nat := 8380417
/-- D (R5). -/
def D : Nat := parameters.d
/-- GAMMA1 = (Q − 1)/16 (R5). -/
def GAMMA1 : Nat := (Q - 1) / 16
/-- GAMMA2 = GAMMA1/2 (R5). -/
def GAMMA2 : Nat := GAMMA1 / 2
/-- ALPHA = 2·GAMMA2 (R5). -/
def ALPHA : Nat := 2 * GAMMA2
/-- HB = (Q − 1)/ALPHA, the number of high-bits buckets (R5). -/
def HB : Nat := (Q - 1) / ALPHA
/-- QINV = −Q^(−1) mod 2^32 (R5). -/
def QINV : Nat := 4236238847
/-- MONT = 2^32 mod Q (R5). -/
def MONT : Nat := 2 ^ 32 % Q
/-- ROOT (R5). -/
def ROOT : Nat := parameters.root
/-- NTT_OFFSET = 2Q (R5). -/
def NTT_OFFSET : Word := BitVec.ofNat 32 (2 * Q)
/-- INV_OFFSET = 256·Q (R5). -/
def INV_OFFSET : Word := parameters.invOffset
/-- F_INV (R5, R88). -/
def F_INV : Word := parameters.fInv
/-- The ROM ZETAS (R5, R86). -/
def ZETAS : List Word := parameters.zetas
/-- The ROM ZETAS_INV (R5, R87). -/
def ZETAS_INV : List Word := parameters.zetasInv
/-- The constant of register ID (10_state.md R20). -/
def ID : Word := 0x44514131
/-- The constant of register HWCFG, `{N[15:0], NSREG[7:0], NPREG[7:0]}` (10_state.md R23). -/
def HWCFG : Word := 0x01002020

/-- FREE VALUE. The bits a polynomial coefficient holds while the spec leaves them unspecified (R16, R117; 93 entries
U1, U2): after power-on, or after a reset aborted a command that was to write it. The arguments are which event made
it unspecified (a counter of State), the register and the coefficient. No body: no proof can learn a value of it.
Assumption log entry 1 (DESIGN CHOICE). -/
opaque unspecifiedCoeff : Nat → Nat → Nat → Word

end Sys2Proof.Config
end

