-- ==== Sys2Proof/Syntax.lean ====
section
/-! DEFINITION. The commands of DQA as syntax (spec 30_encoding.md R49 to R51), one constructor for each row of
spec/opcode_table.json, and the error codes of 60_exceptions.md R102. -/

namespace Sys2Proof

/-- The number of a scalar register S0..S31 (10_state.md R14). -/
abbrev SReg := Fin 32

/-- The number of a polynomial register P0..P31 (10_state.md R15). -/
abbrev PReg := Fin 32

/-- The commands. Arguments stand in the order of the fields of the word: `rd`, `rs1`, `rs2`, `re` (R49), those the
row uses. -/
inductive Instr where
  /-- NOP (R98). -/
  | nop
  /-- S.RED32 sd, sa (R65). -/
  | sRed32 (rd rs1 : SReg)
  /-- S.CSUBQ sd, sa (R66). -/
  | sCsubq (rd rs1 : SReg)
  /-- S.FREEZE sd, sa (R67). -/
  | sFreeze (rd rs1 : SReg)
  /-- S.MONT sd, slo, shi: slo = rs1, shi = rs2 (R68). -/
  | sMont (rd rs1 rs2 : SReg)
  /-- S.MONTMUL sd, sa, sb (R69). -/
  | sMontmul (rd rs1 rs2 : SReg)
  /-- S.P2R shi, slo, sa: shi = rd, sa = rs1, slo = re (R78). -/
  | sP2r (rd rs1 re : SReg)
  /-- S.DECOMP shi, slo, sa: shi = rd, sa = rs1, slo = re (R79). -/
  | sDecomp (rd rs1 re : SReg)
  /-- S.MKHINT sd, sa, sb (R80). -/
  | sMkhint (rd rs1 rs2 : SReg)
  /-- S.USEHINT sd, sa, sh (R81). -/
  | sUsehint (rd rs1 rs2 : SReg)
  /-- P.RED32 pd, pa (R70). -/
  | pRed32 (rd rs1 : PReg)
  /-- P.CSUBQ pd, pa (R71). -/
  | pCsubq (rd rs1 : PReg)
  /-- P.FREEZE pd, pa (R72). -/
  | pFreeze (rd rs1 : PReg)
  /-- P.P2R phi, plo, pa: phi = rd, pa = rs1, plo = re (R82). -/
  | pP2r (rd rs1 re : PReg)
  /-- P.DECOMP phi, plo, pa: phi = rd, pa = rs1, plo = re (R83). -/
  | pDecomp (rd rs1 re : PReg)
  /-- P.MKHINT pd, pa, pb, sc: sc = re is a scalar register (R84). -/
  | pMkhint (rd rs1 rs2 : PReg) (re : SReg)
  /-- P.USEHINT pd, pa, ph (R85). -/
  | pUsehint (rd rs1 rs2 : PReg)
  /-- P.NTT pd, pa (R92). -/
  | pNtt (rd rs1 : PReg)
  /-- P.INVNTT pd, pa (R93). -/
  | pInvntt (rd rs1 : PReg)
  /-- P.PWMUL pd, pa, pb (R94). -/
  | pPwmul (rd rs1 rs2 : PReg)
  /-- P.PWACC pd, pu, pv, n: n = re is the unsigned vector length, no register (R50, R95). -/
  | pPwacc (rd rs1 rs2 : PReg) (n : Fin 32)
  /-- P.POLYMUL pd, pa, pb (R96). -/
  | pPolymul (rd rs1 rs2 : PReg)
  /-- P.ZERO pd (R99). -/
  | pZero (rd : PReg)
  /-- P.COPY pd, pa (R100). -/
  | pCopy (rd rs1 : PReg)
  deriving DecidableEq, Repr

/-- The six error codes of R102, by name. -/
inductive ErrCode where
  /-- Code 1: the opcode of a CMD word is unassigned (R55). -/
  | illegalOpcode
  /-- Code 2: a bit that must be 0 in the word's row is 1 (R53). -/
  | reservedField
  /-- Code 3: an operand check of R54 fails. -/
  | badOperand
  /-- Code 4: a CMD write while busy (R26). -/
  | cmdBusy
  /-- Code 5: an S or P access while busy (R41). -/
  | accessBusy
  /-- Code 6: an access of size other than 4 or with `addr[1:0] ≠ 0` (R35, R36). -/
  | misaligned
  deriving DecidableEq, Repr

end Sys2Proof
end

