-- ==== Sys2Proof/WellFormed.lean ====
section
/-! DEFINITION. The operand checks of spec 30_encoding.md R54: the only ones there are. A field's width is in its
type. -/

namespace Sys2Proof

/-- R54 as a check: the two destinations of a split command differ; the vectors of P.PWACC are not empty and lie
inside the file. -/
def Instr.wellFormed : Instr → Bool
  | .sP2r rd _ re => rd != re
  | .sDecomp rd _ re => rd != re
  | .pP2r rd _ re => rd != re
  | .pDecomp rd _ re => rd != re
  | .pPwacc _ rs1 rs2 n =>
    decide (1 ≤ n.val) && decide (rs1.val + n.val ≤ 32) && decide (rs2.val + n.val ≤ 32)
  | .nop => true
  | .sRed32 _ _ => true
  | .sCsubq _ _ => true
  | .sFreeze _ _ => true
  | .sMont _ _ _ => true
  | .sMontmul _ _ _ => true
  | .sMkhint _ _ _ => true
  | .sUsehint _ _ _ => true
  | .pRed32 _ _ => true
  | .pCsubq _ _ => true
  | .pFreeze _ _ => true
  | .pMkhint _ _ _ _ => true
  | .pUsehint _ _ _ => true
  | .pNtt _ _ => true
  | .pInvntt _ _ => true
  | .pPwmul _ _ _ => true
  | .pPolymul _ _ _ => true
  | .pZero _ => true
  | .pCopy _ _ => true

/-- A command that passes the operand checks of R54. -/
abbrev Instr.WellFormed (i : Instr) : Prop := i.wellFormed = true

end Sys2Proof
end

