-- ==== Sys2Proof/Decode.lean ====
section
/-! DEFINITION. Decoding a command word and encoding a command (spec 30_encoding.md R48 to R56), both from the opcode
map of R51. Decoding is total on words; it rejects by the error names of R102. -/

namespace Sys2Proof

/-- The five-bit field of a word whose lowest bit is `lo`, as a register number (R49, R50: zero-extended). -/
def regField (v : Word) (lo : Nat) : Fin 32 := (v.extractLsb' lo 5).toFin

/-- The opcode field, bits 31:26 (R49). -/
def opcField (v : Word) : Nat := (v.extractLsb' 26 6).toNat

/-- The four operand fields of format C (R49). -/
structure Fields where
  rd : Fin 32
  rs1 : Fin 32
  rs2 : Fin 32
  re : Fin 32
  deriving DecidableEq, Repr

/-- The operand fields of a word: rd 25:21, rs1 20:16, rs2 15:11, re 10:6 (R49). -/
def fieldsOf (v : Word) : Fields :=
  { rd := regField v 21, rs1 := regField v 16, rs2 := regField v 11, re := regField v 6 }

/-- One row of the opcode map of R51. -/
structure OpRow where
  /-- Match: the bits that select the row. -/
  pat : Word
  /-- Mask: the opcode, `z` and every field the command does not use. -/
  mask : Word
  /-- The command made of the word's fields. -/
  build : Fields → Instr

/-- The opcode map of R51, in its order. -/
def opcodeMap : List OpRow :=
  [ ⟨0x00000000, 0xFFFFFFFF, fun _ => .nop⟩,
    ⟨0x04000000, 0xFC00FFFF, fun f => .sRed32 f.rd f.rs1⟩,
    ⟨0x08000000, 0xFC00FFFF, fun f => .sCsubq f.rd f.rs1⟩,
    ⟨0x0C000000, 0xFC00FFFF, fun f => .sFreeze f.rd f.rs1⟩,
    ⟨0x10000000, 0xFC0007FF, fun f => .sMont f.rd f.rs1 f.rs2⟩,
    ⟨0x14000000, 0xFC0007FF, fun f => .sMontmul f.rd f.rs1 f.rs2⟩,
    ⟨0x18000000, 0xFC00F83F, fun f => .sP2r f.rd f.rs1 f.re⟩,
    ⟨0x1C000000, 0xFC00F83F, fun f => .sDecomp f.rd f.rs1 f.re⟩,
    ⟨0x20000000, 0xFC0007FF, fun f => .sMkhint f.rd f.rs1 f.rs2⟩,
    ⟨0x24000000, 0xFC0007FF, fun f => .sUsehint f.rd f.rs1 f.rs2⟩,
    ⟨0x40000000, 0xFC00FFFF, fun f => .pRed32 f.rd f.rs1⟩,
    ⟨0x44000000, 0xFC00FFFF, fun f => .pCsubq f.rd f.rs1⟩,
    ⟨0x48000000, 0xFC00FFFF, fun f => .pFreeze f.rd f.rs1⟩,
    ⟨0x4C000000, 0xFC00F83F, fun f => .pP2r f.rd f.rs1 f.re⟩,
    ⟨0x50000000, 0xFC00F83F, fun f => .pDecomp f.rd f.rs1 f.re⟩,
    ⟨0x54000000, 0xFC00003F, fun f => .pMkhint f.rd f.rs1 f.rs2 f.re⟩,
    ⟨0x58000000, 0xFC0007FF, fun f => .pUsehint f.rd f.rs1 f.rs2⟩,
    ⟨0x60000000, 0xFC00FFFF, fun f => .pNtt f.rd f.rs1⟩,
    ⟨0x64000000, 0xFC00FFFF, fun f => .pInvntt f.rd f.rs1⟩,
    ⟨0x68000000, 0xFC0007FF, fun f => .pPwmul f.rd f.rs1 f.rs2⟩,
    ⟨0x6C000000, 0xFC00003F, fun f => .pPwacc f.rd f.rs1 f.rs2 f.re⟩,
    ⟨0x70000000, 0xFC0007FF, fun f => .pPolymul f.rd f.rs1 f.rs2⟩,
    ⟨0x78000000, 0xFC1FFFFF, fun f => .pZero f.rd⟩,
    ⟨0x7C000000, 0xFC00FFFF, fun f => .pCopy f.rd f.rs1⟩ ]

/-- The row whose match has the word's opcode, if the opcode is assigned (R52, R55). -/
def rowOf (v : Word) : Option OpRow := opcodeMap.find? fun r => opcField r.pat == opcField v

/-- R52: the checks in their order, the first that fails decides the error. -/
def decode (v : Word) : Except ErrCode Instr :=
  match rowOf v with
  | none => .error .illegalOpcode
  | some row =>
    if v &&& row.mask = row.pat then
      let i := row.build (fieldsOf v)
      if i.wellFormed then .ok i else .error .badOperand
    else .error .reservedField

/-- The instruction the decoder reads from a row's word whose low `nbits` bits are `w` (every row of the table is one
32-bit word, bit 0 its least significant bit, R48). -/
def decodeTableWord (nbits w : Nat) : Option Instr :=
  match decode (BitVec.ofNat 32 (w % 2 ^ nbits)) with
  | .ok i => some i
  | .error _ => none

/-- The word an assembler builds from an opcode and the four fields (R56). -/
def packWord (opc : Nat) (rd rs1 rs2 re : Fin 32) : Word :=
  (BitVec.ofNat 32 opc <<< 26) ||| (BitVec.ofNat 32 rd.val <<< 21) ||| (BitVec.ofNat 32 rs1.val <<< 16)
    ||| (BitVec.ofNat 32 rs2.val <<< 11) ||| (BitVec.ofNat 32 re.val <<< 6)

/-- The word of a command (R51, R56): its opcode, its operands in their fields, 0 in a field it does not use. -/
def encode : Instr → Word
  | .nop => packWord 0x00 0 0 0 0
  | .sRed32 rd rs1 => packWord 0x01 rd rs1 0 0
  | .sCsubq rd rs1 => packWord 0x02 rd rs1 0 0
  | .sFreeze rd rs1 => packWord 0x03 rd rs1 0 0
  | .sMont rd rs1 rs2 => packWord 0x04 rd rs1 rs2 0
  | .sMontmul rd rs1 rs2 => packWord 0x05 rd rs1 rs2 0
  | .sP2r rd rs1 re => packWord 0x06 rd rs1 0 re
  | .sDecomp rd rs1 re => packWord 0x07 rd rs1 0 re
  | .sMkhint rd rs1 rs2 => packWord 0x08 rd rs1 rs2 0
  | .sUsehint rd rs1 rs2 => packWord 0x09 rd rs1 rs2 0
  | .pRed32 rd rs1 => packWord 0x10 rd rs1 0 0
  | .pCsubq rd rs1 => packWord 0x11 rd rs1 0 0
  | .pFreeze rd rs1 => packWord 0x12 rd rs1 0 0
  | .pP2r rd rs1 re => packWord 0x13 rd rs1 0 re
  | .pDecomp rd rs1 re => packWord 0x14 rd rs1 0 re
  | .pMkhint rd rs1 rs2 re => packWord 0x15 rd rs1 rs2 re
  | .pUsehint rd rs1 rs2 => packWord 0x16 rd rs1 rs2 0
  | .pNtt rd rs1 => packWord 0x18 rd rs1 0 0
  | .pInvntt rd rs1 => packWord 0x19 rd rs1 0 0
  | .pPwmul rd rs1 rs2 => packWord 0x1A rd rs1 rs2 0
  | .pPwacc rd rs1 rs2 n => packWord 0x1B rd rs1 rs2 n
  | .pPolymul rd rs1 rs2 => packWord 0x1C rd rs1 rs2 0
  | .pZero rd => packWord 0x1E rd 0 0 0
  | .pCopy rd rs1 => packWord 0x1F rd rs1 0 0

/-- The little-endian bytes of a word, the lowest address first (20_memory.md R37): how a bus with byte lanes
presents it. DQA itself moves whole words only. -/
def wordBytes (v : Word) : List (BitVec 8) :=
  [v.extractLsb' 0 8, v.extractLsb' 8 8, v.extractLsb' 16 8, v.extractLsb' 24 8]

/-- The word that four little-endian bytes make (20_memory.md R37). -/
def wordOfBytes (b0 b1 b2 b3 : BitVec 8) : Word := b3 ++ b2 ++ b1 ++ b0

end Sys2Proof
end

