-- ==== Sys2Proof/Machine/State.lean ====
section
/-! DEFINITION. The state of DQA as plain data (spec 10_state.md R12 to R29, 70_reset_and_hazards.md R118), the reasons a
step can stop, and the state right after power-on and reset. -/

namespace Sys2Proof.Machine

/-- Why the machine stops. No command and no host access of the spec stops it (R6, R27, R101). -/
inductive Fault where
  /-- Raised by the engine's step (Machine/Engine.lean) when CLATCH holds a word that does not decode. Safe: R26 latches
  only accepted words, and the invariant of Safety.lean rules such a state out. Assumption log entry 7. -/
  | undecodableLatch
  deriving DecidableEq, Repr

/-- Why the model gives no meaning. -/
inductive Refusal where
  /-- Raised by an arm of `exec` whose instruction has no meaning yet; safe. No arm of this model raises it. -/
  | notModelled (mnemonic : String)
  deriving DecidableEq, Repr

/-- One coefficient of a polynomial register (R15, R16). -/
inductive Coeff where
  /-- It holds a word that something wrote. -/
  | written (w : Word)
  /-- Nothing has written it since event number `event` left its contents unspecified (R16, R117): power-on, or a reset
  that aborted a command. Reading it gives the free value `Config.unspecifiedCoeff event`. -/
  | unwritten (event : Nat)
  deriving DecidableEq, Repr

/-- PHASE and CLATCH of R25 in one: the latched word is valid exactly while the phase is busy. STATUS.BUSY is this
phase (R17, R25). Assumption log entry 8 (DEDUCED, safe). -/
inductive Engine where
  /-- PHASE idle, CLATCH invalid, BUSY = 0. -/
  | idle
  /-- PHASE busy, CLATCH = `latched`, BUSY = 1. -/
  | busy (latched : Word)
  deriving DecidableEq, Repr

/-- What the world outside the block does to it, and when: an entry is one element of the total order of R42.
Assumption log entry 2 (DESIGN CHOICE, safe). -/
inductive Event where
  /-- The host reads `size` bytes at `addr` (R9 MemRead, R35). -/
  | read (addr : Addr) (size : Nat)
  /-- The host writes `size` bytes at `addr`; `data` is the word when the size is 4 (R9 MemWrite, R35). -/
  | write (addr : Addr) (size : Nat) (data : Word)
  /-- The engine takes its step before the next entry (R27, R42): how many entries stand before it is LATENCY (R28). -/
  | engineTurn
  /-- rst_n goes low (R115). -/
  | assertReset
  /-- rst_n goes high (R115). -/
  | releaseReset
  /-- The block loses power and gets it back (R114). -/
  | powerCycle
  deriving DecidableEq, Repr

/-- Everything the spec gives the machine, and four fields of the model's own (marked MODEL). -/
structure State where
  /-- S0..S31 (R14). -/
  sregs : Vector Word 32
  /-- P0..P31, 256 coefficients each (R15, R16). -/
  pregs : Vector (Vector Coeff 256) 32
  /-- PHASE, CLATCH and STATUS.BUSY (R17, R25). -/
  engine : Engine
  /-- STATUS.DONE (R17). -/
  done : Bool
  /-- STATUS.ERR (R17). -/
  err : Bool
  /-- STATUS.EOVF (R17). -/
  eovf : Bool
  /-- STATUS.ERRCODE (R17, R102). -/
  errcode : BitVec 4
  /-- CTRL.IE_DONE (R18). -/
  ieDone : Bool
  /-- CTRL.IE_ERR (R18). -/
  ieErr : Bool
  /-- ERRINFO (R21). -/
  errinfo : Word
  /-- CMDCOUNT (R22). -/
  cmdcount : Word
  /-- The reset input rst_n is low (R115). -/
  inReset : Bool
  /-- MODEL: what the outside world does next, first entry first; this order is the order of R42. -/
  events : List Event
  /-- MODEL: the word the port returned to the host's latest read, if it has read (R9 MemRead).
  Assumption log entry 6 (DESIGN CHOICE, safe). -/
  lastRead : Option Word
  /-- MODEL: the number of events so far that left coefficients unspecified; the argument of the free value.
  Assumption log entry 1. -/
  unspecCount : Nat
  /-- MODEL: the fault record of R16: an unwritten coefficient has been read by the host or consumed by a command.
  Assumption log entry 1. -/
  unwrittenUse : Bool
  deriving DecidableEq, Repr

/-- The state right after power-on and the release of rst_n (R118), with nothing of the outside world pending. -/
def State.reset : State where
  sregs := Vector.replicate 32 0
  pregs := Vector.replicate 32 (Vector.replicate 256 (.unwritten 0))
  engine := .idle
  done := false
  err := false
  eovf := false
  errcode := 0
  ieDone := false
  ieErr := false
  errinfo := 0
  cmdcount := 0
  inReset := false
  events := []
  lastRead := none
  unspecCount := 1
  unwrittenUse := false

end Sys2Proof.Machine
end

