-- ==== Sys2Proof/Machine/Ops.lean ====
section
/-! DEFINITION. The named operations on DQA's state that commands, host accesses and resets share: the one home of each
register's reads and writes, recording an error and clearing it (spec 60_exceptions.md R103, R107), completion
(10_state.md R27) and reset (70_reset_and_hazards.md R115 to R118). -/

namespace Sys2Proof.Machine

/-- A polynomial as 256 known words (R9). -/
abbrev Lanes := Vector Word 256

/-- The bits a coefficient holds: the word written, or the free value of its unspecified contents (R16). -/
def Coeff.value (r k : Nat) : Coeff → Word
  | .written w => w
  | .unwritten event => Config.unspecifiedCoeff event r k

/-- The coefficient is unwritten (R16). -/
def Coeff.isUnwritten : Coeff → Bool
  | .written _ => false
  | .unwritten _ => true

namespace State

/-- `S[i]` (R9). -/
def readS (s : State) (i : SReg) : Word := s.sregs[i.val]

/-- `S[i] <- v` (R9). -/
def writeS (s : State) (i : SReg) (v : Word) : State := { s with sregs := s.sregs.set i.val v }

/-- The coefficient `P[r][k]` with its mark (R15, R16). -/
def coeff (s : State) (r : PReg) (k : Fin 256) : Coeff := (s.pregs[r.val])[k.val]

/-- `P[r][k]` (R9): its bits. -/
def readCoeff (s : State) (r : PReg) (k : Fin 256) : Word := (s.coeff r k).value r.val k.val

/-- `P[r][k] <- v` (R33): every other coefficient stays. -/
def writeCoeff (s : State) (r : PReg) (k : Fin 256) (v : Word) : State :=
  { s with pregs := s.pregs.set r.val ((s.pregs[r.val]).set k.val (.written v)) }

/-- `P[r]` as 256 words (R9). -/
def readP (s : State) (r : PReg) : Lanes := Vector.ofFn fun k => s.readCoeff r k

/-- `P[r] <- p` (R9): all 256 coefficients; each then counts as written (R16). -/
def writeP (s : State) (r : PReg) (p : Lanes) : State :=
  { s with pregs := s.pregs.set r.val (Vector.ofFn fun k : Fin 256 => .written p[k.val]) }

/-- Some coefficient of `P[r]` is unwritten (R16). -/
def hasUnwritten (s : State) (r : PReg) : Bool := (s.pregs[r.val]).toList.any Coeff.isUnwritten

/-- A command consumes the whole of each register in `rs`: the fault record of R16. -/
def consume (s : State) (rs : List PReg) : State :=
  { s with unwrittenUse := s.unwrittenUse || rs.any fun r => s.hasUnwritten r }

/-- The host reads `P[r][k]`: the fault record of R16. -/
def consumeCoeff (s : State) (r : PReg) (k : Fin 256) : State :=
  { s with unwrittenUse := s.unwrittenUse || (s.coeff r k).isUnwritten }

/-- The contents of each register in `rs` become unspecified, by one new event (R117). -/
def loseP (s : State) (rs : List PReg) : State :=
  { s with
    pregs := rs.foldl (fun p r => p.set r.val (Vector.replicate 256 (.unwritten s.unspecCount))) s.pregs
    unspecCount := s.unspecCount + 1 }

/-- STATUS.BUSY (R17, R25). -/
def busy (s : State) : Bool :=
  match s.engine with
  | .idle => false
  | .busy _ => true

end State

/-- The number of an error in STATUS.ERRCODE (R102). -/
def ErrCode.number : ErrCode → BitVec 4
  | .illegalOpcode => 1
  | .reservedField => 2
  | .badOperand => 3
  | .cmdBusy => 4
  | .accessBusy => 5
  | .misaligned => 6

/-- `raise Error(code, info)` (R103): DQA's whole counterpart of taking an exception. No state is saved, no mode
changes and control goes nowhere (R101, R106). -/
def raiseError (code : ErrCode) (info : Word) (s : State) : State :=
  if s.err then { s with eovf := true }
  else { s with err := true, errcode := ErrCode.number code, errinfo := info }

/-- The host's acknowledgement of an error (R107): DQA's whole counterpart of returning from an exception. -/
def clearError (s : State) : State :=
  { s with err := false, eovf := false, errcode := 0, errinfo := 0 }

/-- The host's acknowledgement of a completion (R107). -/
def clearDone (s : State) : State := { s with done := false }

/-- Acceptance of a command word (R26 item 3). -/
def accept (v : Word) (s : State) : State := { s with engine := .busy v }

/-- Completion of a command (R27). -/
def complete (s : State) : State :=
  { s with engine := .idle, done := true, cmdcount := s.cmdcount + 1 }

/-- The polynomial registers a command writes (R117): P[rd], and P[re] for P.P2R and P.DECOMP. -/
def polyDests : Instr → List PReg
  | .nop => []
  | .sRed32 _ _ => []
  | .sCsubq _ _ => []
  | .sFreeze _ _ => []
  | .sMont _ _ _ => []
  | .sMontmul _ _ _ => []
  | .sP2r _ _ _ => []
  | .sDecomp _ _ _ => []
  | .sMkhint _ _ _ => []
  | .sUsehint _ _ _ => []
  | .pRed32 rd _ => [rd]
  | .pCsubq rd _ => [rd]
  | .pFreeze rd _ => [rd]
  | .pP2r rd _ re => [rd, re]
  | .pDecomp rd _ re => [rd, re]
  | .pMkhint rd _ _ _ => [rd]
  | .pUsehint rd _ _ => [rd]
  | .pNtt rd _ => [rd]
  | .pInvntt rd _ => [rd]
  | .pPwmul rd _ _ => [rd]
  | .pPwacc rd _ _ _ => [rd]
  | .pPolymul rd _ _ => [rd]
  | .pZero rd => [rd]
  | .pCopy rd _ => [rd]

/-- The polynomial destinations of the command in progress, if there is one (R117). -/
def abortedDests (s : State) : List PReg :=
  match s.engine with
  | .idle => []
  | .busy v =>
    match decode v with
    | .ok i => polyDests i
    | .error _ => []

/-- The values of R118 that every reset gives, hardware or soft; the P file stays. -/
def resetRegisters (s : State) : State :=
  { s with
    sregs := Vector.replicate 32 0
    engine := .idle
    done := false
    err := false
    eovf := false
    errcode := 0
    ieDone := false
    ieErr := false
    errinfo := 0
    cmdcount := 0 }

/-- A reset, hardware or soft (R115, R116): the command in progress, if any, is aborted and its polynomial destinations
become unspecified (R117); every other register takes its value of R118. -/
def resetBlock (s : State) : State :=
  resetRegisters (if s.busy then s.loseP (abortedDests s) else s)

/-- Power lost and back (R114): every P coefficient is unspecified, the rest takes its reset value. Assumption log
entry 5 (DESIGN CHOICE). -/
def powerCycle (s : State) : State := resetRegisters (s.loseP (List.finRange 32))

end Sys2Proof.Machine
end

