-- ==== Sys2Proof/Machine/Operands.lean ====
section
/-! DEFINITION. The operand forms of DQA's commands (spec 30_encoding.md R50) and lane lifting (00_scope.md R11). Each
form reads every source before it writes a destination (R10) and ends with the completion of 10_state.md R27. -/

namespace Sys2Proof.Machine

/-- `f` applied lane by lane to one polynomial (R11). -/
def mapLanes {α : Type} (f : Word → α) (a : Lanes) : Vector α 256 := ⟨⟨a.toList.map f⟩, by simp⟩

/-- `f` applied lane by lane to two polynomials (R11). -/
def zipLanes (f : Word → Word → Word) (a b : Lanes) : Lanes := ⟨⟨List.zipWith f a.toList b.toList⟩, by simp⟩

/-- A scalar command with one source: `a <- S[rs1]; S[rd] <- f(a)`. -/
def scalarUnary (f : Word → Word) (rd rs1 : SReg) (s : State) : State :=
  complete (s.writeS rd (f (s.readS rs1)))

/-- A scalar command with two sources: `a <- S[rs1]; b <- S[rs2]; S[rd] <- f(a, b)`. -/
def scalarBinary (f : Word → Word → Word) (rd rs1 rs2 : SReg) (s : State) : State :=
  complete (s.writeS rd (f (s.readS rs1) (s.readS rs2)))

/-- A scalar split command: `a <- S[rs1]; (h, l) <- f(a); S[rd] <- h; S[re] <- l`. -/
def scalarSplit (f : Word → Word × Word) (rd rs1 re : SReg) (s : State) : State :=
  let hl := f (s.readS rs1)
  complete ((s.writeS rd hl.1).writeS re hl.2)

/-- A polynomial command with one source and a whole-polynomial function: `A <- P[rs1]; P[rd] <- g(A)`. -/
def polyUnary (g : Lanes → Lanes) (rd rs1 : PReg) (s : State) : State :=
  complete ((s.consume [rs1]).writeP rd (g (s.readP rs1)))

/-- A polynomial command with two sources: `A <- P[rs1]; B <- P[rs2]; P[rd] <- g(A, B)`. -/
def polyBinary (g : Lanes → Lanes → Lanes) (rd rs1 rs2 : PReg) (s : State) : State :=
  complete ((s.consume [rs1, rs2]).writeP rd (g (s.readP rs1) (s.readP rs2)))

/-- A polynomial split command: `A <- P[rs1]; (H[k], L[k]) <- f(A[k]); P[rd] <- H; P[re] <- L`. -/
def polySplit (f : Word → Word × Word) (rd rs1 re : PReg) (s : State) : State :=
  let a := s.readP rs1
  complete (((s.consume [rs1]).writeP rd (mapLanes (fun x => (f x).1) a)).writeP re
    (mapLanes (fun x => (f x).2) a))

/-- The `n` consecutive polynomial registers from `r` (R54, R95). R54 keeps `r + n` within the file; past it the number
wraps, in words no decoder accepts (assumption log entry 9: DESIGN CHOICE, safe). -/
def vectorRegs (r : PReg) (n : Nat) : List PReg := (List.range n).map fun j => Fin.ofNat 32 (r.val + j)

end Sys2Proof.Machine
end

