-- ==== Sys2Proof/Machine/Control.lean ====
section
/-! DEFINITION. The housekeeping commands (spec 44_control.md R98 to R100). -/

namespace Sys2Proof.Machine

/-- NOP (R98): completion only. -/
def execNop (s : State) : Host.Outcome State Fault Refusal := .next (complete s)

/-- P.ZERO (R99). -/
def execPZero (rd : PReg) (s : State) : Host.Outcome State Fault Refusal :=
  .next (complete (s.writeP rd (Vector.replicate 256 0)))

/-- P.COPY (R100): bit-exact. -/
def execPCopy (rd rs1 : PReg) (s : State) : Host.Outcome State Fault Refusal := .next (polyUnary id rd rs1 s)

end Sys2Proof.Machine
end

