-- ==== Sys2Proof/Machine/Reduction.lean ====
section
/-! DEFINITION. The modular and Montgomery reductions and their commands (spec 40_reduction.md R59 to R72). -/

namespace Sys2Proof.Machine

/-- RED32 (R59). -/
def red32 (a : Word) : Word :=
  let t := a &&& 0x7FFFFF
  let hi := a >>> 23
  t + (hi <<< 13) - hi

/-- CSUBQ (R60). -/
def csubq (a : Word) : Word :=
  let d := a - BitVec.ofNat 32 Config.Q
  if d.getLsbD 31 then d + BitVec.ofNat 32 Config.Q else d

/-- FREEZE (R61). -/
def freeze (a : Word) : Word := csubq (red32 a)

/-- MREDC (R62); the sum wraps modulo 2^64. -/
def mredc (a : DWord) : Word :=
  let t := (a * BitVec.ofNat 64 Config.QINV) &&& 0xFFFFFFFF
  let u := a + t * BitVec.ofNat 64 Config.Q
  (u >>> 32).setWidth 32

/-- MMUL (R63). -/
def mmul (a b : Word) : Word := mredc (wideMul a b)

/-- The 64-bit input of S.MONT, `{S[rs2], S[rs1]}` (R68). -/
def mont (lo hi : Word) : Word := mredc (hi ++ lo)

/-- S.RED32 (R65). -/
def execSRed32 (rd rs1 : SReg) (s : State) : Host.Outcome State Fault Refusal := .next (scalarUnary red32 rd rs1 s)

/-- S.CSUBQ (R66). -/
def execSCsubq (rd rs1 : SReg) (s : State) : Host.Outcome State Fault Refusal := .next (scalarUnary csubq rd rs1 s)

/-- S.FREEZE (R67). -/
def execSFreeze (rd rs1 : SReg) (s : State) : Host.Outcome State Fault Refusal := .next (scalarUnary freeze rd rs1 s)

/-- S.MONT (R68). -/
def execSMont (rd rs1 rs2 : SReg) (s : State) : Host.Outcome State Fault Refusal :=
  .next (scalarBinary mont rd rs1 rs2 s)

/-- S.MONTMUL (R69). -/
def execSMontmul (rd rs1 rs2 : SReg) (s : State) : Host.Outcome State Fault Refusal :=
  .next (scalarBinary mmul rd rs1 rs2 s)

/-- P.RED32 (R70). -/
def execPRed32 (rd rs1 : PReg) (s : State) : Host.Outcome State Fault Refusal :=
  .next (polyUnary (mapLanes red32) rd rs1 s)

/-- P.CSUBQ (R71). -/
def execPCsubq (rd rs1 : PReg) (s : State) : Host.Outcome State Fault Refusal :=
  .next (polyUnary (mapLanes csubq) rd rs1 s)

/-- P.FREEZE (R72). -/
def execPFreeze (rd rs1 : PReg) (s : State) : Host.Outcome State Fault Refusal :=
  .next (polyUnary (mapLanes freeze) rd rs1 s)

end Sys2Proof.Machine
end

