-- ==== Sys2Proof/Machine/Transform.lean ====
section
/-! DEFINITION. The forward and inverse NTT and their commands (spec 42_ntt.md R86 to R93). A level is computed block by
block, in order, one twiddle a block; within a block the butterflies touch disjoint pairs of lanes, so they are computed
together: assumption log entry 11 (DEDUCED, safe). -/

namespace Sys2Proof.Machine

open Config

/-- What a butterfly makes of its twiddle and its lower and upper lane: the new lower and the new upper lane. -/
abbrev Butterfly := Word → Word → Word → Word × Word

/-- The forward butterfly (R89). -/
def forwardButterfly : Butterfly := fun zeta lo hi =>
  let t := mmul zeta hi
  (lo + t, lo + NTT_OFFSET - t)

/-- The inverse butterfly (R90). -/
def inverseButterfly : Butterfly := fun zeta lo hi =>
  (lo + hi, mmul zeta (lo + INV_OFFSET - hi))

/-- One block of `2·len` lanes: lane j is paired with lane j + len (R89, R90). -/
def blockPass (f : Butterfly) (zeta : Word) (len : Nat) (p : List Word) : List Word :=
  let r := List.zipWith (f zeta) (p.take len) (p.drop len)
  r.map Prod.fst ++ r.map Prod.snd

/-- One level: `blocks` blocks of `2·len` lanes, the first with twiddle number `k` of the table, each next one with the
next number (R89, R90). -/
def levelPass (f : Butterfly) (table : List Word) (len : Nat) : (blocks k : Nat) → List Word → List Word
  | 0, _, _ => []
  | blocks + 1, k, p =>
    blockPass f (table.getD k 0) len (p.take (2 * len)) ++ levelPass f table len blocks (k + 1) (p.drop (2 * len))

/-- The levels in order, each with its block length; the twiddle number goes on from level to level (R89, R90). -/
def levels (f : Butterfly) (table : List Word) : (lens : List Nat) → (k : Nat) → List Word → List Word
  | [], _, p => p
  | len :: lens, k, p =>
    let blocks := N / (2 * len)
    levels f table lens (k + blocks) (levelPass f table len blocks k p)

/-- 256 words as a polynomial. -/
def lanesOf (p : List Word) : Lanes := if h : p.length = 256 then ⟨⟨p⟩, h⟩ else Vector.replicate 256 0

/-- NTT (R89): block lengths 128 down to 1, twiddles ZETAS[1..255]. -/
def ntt (a : Lanes) : Lanes :=
  lanesOf (levels forwardButterfly ZETAS [128, 64, 32, 16, 8, 4, 2, 1] 1 a.toList)

/-- INTT (R90): block lengths 1 up to 128, twiddles ZETAS_INV[0..254], then the scaling by F_INV. -/
def intt (a : Lanes) : Lanes :=
  lanesOf ((levels inverseButterfly ZETAS_INV [1, 2, 4, 8, 16, 32, 64, 128] 0 a.toList).map (mmul F_INV))

/-- P.NTT (R92). -/
def execPNtt (rd rs1 : PReg) (s : State) : Host.Outcome State Fault Refusal := .next (polyUnary ntt rd rs1 s)

/-- P.INVNTT (R93). -/
def execPInvntt (rd rs1 : PReg) (s : State) : Host.Outcome State Fault Refusal := .next (polyUnary intt rd rs1 s)

end Sys2Proof.Machine
end

