-- ==== Sys2Proof/Machine/Multiplier.lean ====
section
/-! DEFINITION. The ring polynomial multiplier's commands (spec 43_multiplier.md R94 to R96). -/

namespace Sys2Proof.Machine

/-- The pointwise Montgomery product, MMUL lane by lane (R94). -/
def pwmul (a b : Lanes) : Lanes := zipLanes mmul a b

/-- The pointwise multiply-accumulate of two vectors of polynomials, one final FREEZE (R95). -/
def pwacc (us vs : List Lanes) : Lanes :=
  mapLanes freeze ((List.zipWith pwmul us vs).foldl (zipLanes (· + ·)) (Vector.replicate 256 0))

/-- The full ring product: transform, multiply, transform back, freeze (R96). -/
def polymul (a b : Lanes) : Lanes := mapLanes freeze (intt (pwmul (ntt a) (ntt b)))

/-- P.PWMUL (R94). -/
def execPPwmul (rd rs1 rs2 : PReg) (s : State) : Host.Outcome State Fault Refusal :=
  .next (polyBinary pwmul rd rs1 rs2 s)

/-- P.PWACC (R95): the sources are P[rs1..rs1+n−1] and P[rs2..rs2+n−1]. -/
def execPPwacc (rd rs1 rs2 : PReg) (n : Fin 32) (s : State) : Host.Outcome State Fault Refusal :=
  let us := vectorRegs rs1 n.val
  let vs := vectorRegs rs2 n.val
  .next (complete ((s.consume (us ++ vs)).writeP rd (pwacc (us.map s.readP) (vs.map s.readP))))

/-- P.POLYMUL (R96); SCRATCH holds its intermediates and is never visible (R25). -/
def execPPolymul (rd rs1 rs2 : PReg) (s : State) : Host.Outcome State Fault Refusal :=
  .next (polyBinary polymul rd rs1 rs2 s)

end Sys2Proof.Machine
end

