-- ==== Sys2Proof/Machine/Rounding.lean ====
section
/-! DEFINITION. Power-of-two rounding, high/low decomposition, hints and their commands (spec 41_rounding.md R73 to R85).
The intermediate values are integers, narrowed where the spec writes `wrap32`. -/

namespace Sys2Proof.Machine

open Config

/-- The two centring steps that P2R and DECOMP share (R73, R74): from `t` in [0, m], subtract `m/2 + 1`, add `m` if
negative, subtract `m/2 − 1`. -/
def centre (m : Int) (t : Int) : Int :=
  let t := t - (m / 2 + 1)
  let t := if t < 0 then t + m else t
  t - (m / 2 - 1)

/-- P2R (R73): (a1, a0), the low part stored as signed + Q (90_conflicts.md C7). -/
def p2r (a : Word) : Word × Word :=
  let t := centre (2 ^ D) (a &&& BitVec.ofNat 32 (2 ^ D - 1)).toNat
  (wrap32 (a.toNat - t) >>> D, wrap32 (Q + t))

/-- DECOMP (R74): (a1, a0). -/
def decomp (a : Word) : Word × Word :=
  let t := centre ALPHA ((a &&& 0x7FFFF).toNat + ((a >>> 19) <<< 9).toNat)
  let b := wrap32 (a.toNat - t)
  let u : Word := if (b - 1).getLsbD 31 then 1 else 0
  let h := (b >>> 19) + 1 - u
  (h &&& 0xF, wrap32 (Q + t - (h >>> 4).toNat))

/-- HINT (R75). -/
def hint (a b : Word) : Word := if (decomp a).1 ≠ (decomp (freeze (a + b))).1 then 1 else 0

/-- USEHINT (R76): any nonzero `h` is a set hint. -/
def useHint (a h : Word) : Word :=
  let a1 := (decomp a).1
  let a0 := (decomp a).2
  if h = 0 then a1
  else if Q < a0.toNat then
    if a1 = BitVec.ofNat 32 (HB - 1) then 0 else a1 + 1
  else
    if a1 = 0 then BitVec.ofNat 32 (HB - 1) else a1 - 1

/-- S.P2R (R78). -/
def execSP2r (rd rs1 re : SReg) (s : State) : Host.Outcome State Fault Refusal := .next (scalarSplit p2r rd rs1 re s)

/-- S.DECOMP (R79). -/
def execSDecomp (rd rs1 re : SReg) (s : State) : Host.Outcome State Fault Refusal :=
  .next (scalarSplit decomp rd rs1 re s)

/-- S.MKHINT (R80). -/
def execSMkhint (rd rs1 rs2 : SReg) (s : State) : Host.Outcome State Fault Refusal :=
  .next (scalarBinary hint rd rs1 rs2 s)

/-- S.USEHINT (R81). -/
def execSUsehint (rd rs1 rs2 : SReg) (s : State) : Host.Outcome State Fault Refusal :=
  .next (scalarBinary useHint rd rs1 rs2 s)

/-- P.P2R (R82). -/
def execPP2r (rd rs1 re : PReg) (s : State) : Host.Outcome State Fault Refusal := .next (polySplit p2r rd rs1 re s)

/-- P.DECOMP (R83). -/
def execPDecomp (rd rs1 re : PReg) (s : State) : Host.Outcome State Fault Refusal :=
  .next (polySplit decomp rd rs1 re s)

/-- The number of hints set in the 256 lanes of H, `Σ_k H[k]` (R84). -/
def hintCount (h : Lanes) : Nat := (h.toList.map BitVec.toNat).sum

/-- P.MKHINT (R84): the hints go to P[rd]; their count is added to S[re]. -/
def execPMkhint (rd rs1 rs2 : PReg) (re : SReg) (s : State) : Host.Outcome State Fault Refusal :=
  let h := zipLanes hint (s.readP rs1) (s.readP rs2)
  let c := s.readS re
  .next (complete (((s.consume [rs1, rs2]).writeP rd h).writeS re (wrap32 (c.toNat + hintCount h))))

/-- P.USEHINT (R85). -/
def execPUsehint (rd rs1 rs2 : PReg) (s : State) : Host.Outcome State Fault Refusal :=
  .next (polyBinary (zipLanes useHint) rd rs1 rs2 s)

end Sys2Proof.Machine
end

