-- ==== Sys2Proof/Machine/Dispatch.lean ====
section
/-! DEFINITION. One arm per constructor of `Instr`, each one direct call of its meaning. -/

namespace Sys2Proof.Machine

def exec (i : Instr) (s : State) : Host.Outcome State Fault Refusal :=
  match i with
  | .nop => Sys2Proof.Machine.execNop s
  -- 40_reduction.md, scalar
  | .sRed32 rd rs1 => Sys2Proof.Machine.execSRed32 rd rs1 s
  | .sCsubq rd rs1 => Sys2Proof.Machine.execSCsubq rd rs1 s
  | .sFreeze rd rs1 => Sys2Proof.Machine.execSFreeze rd rs1 s
  | .sMont rd rs1 rs2 => Sys2Proof.Machine.execSMont rd rs1 rs2 s
  | .sMontmul rd rs1 rs2 => Sys2Proof.Machine.execSMontmul rd rs1 rs2 s
  -- 41_rounding.md, scalar
  | .sP2r rd rs1 re => Sys2Proof.Machine.execSP2r rd rs1 re s
  | .sDecomp rd rs1 re => Sys2Proof.Machine.execSDecomp rd rs1 re s
  | .sMkhint rd rs1 rs2 => Sys2Proof.Machine.execSMkhint rd rs1 rs2 s
  | .sUsehint rd rs1 rs2 => Sys2Proof.Machine.execSUsehint rd rs1 rs2 s
  -- 40_reduction.md, polynomial
  | .pRed32 rd rs1 => Sys2Proof.Machine.execPRed32 rd rs1 s
  | .pCsubq rd rs1 => Sys2Proof.Machine.execPCsubq rd rs1 s
  | .pFreeze rd rs1 => Sys2Proof.Machine.execPFreeze rd rs1 s
  -- 41_rounding.md, polynomial
  | .pP2r rd rs1 re => Sys2Proof.Machine.execPP2r rd rs1 re s
  | .pDecomp rd rs1 re => Sys2Proof.Machine.execPDecomp rd rs1 re s
  | .pMkhint rd rs1 rs2 re => Sys2Proof.Machine.execPMkhint rd rs1 rs2 re s
  | .pUsehint rd rs1 rs2 => Sys2Proof.Machine.execPUsehint rd rs1 rs2 s
  -- 42_ntt.md
  | .pNtt rd rs1 => Sys2Proof.Machine.execPNtt rd rs1 s
  | .pInvntt rd rs1 => Sys2Proof.Machine.execPInvntt rd rs1 s
  -- 43_multiplier.md
  | .pPwmul rd rs1 rs2 => Sys2Proof.Machine.execPPwmul rd rs1 rs2 s
  | .pPwacc rd rs1 rs2 n => Sys2Proof.Machine.execPPwacc rd rs1 rs2 n s
  | .pPolymul rd rs1 rs2 => Sys2Proof.Machine.execPPolymul rd rs1 rs2 s
  -- 44_control.md
  | .pZero rd => Sys2Proof.Machine.execPZero rd s
  | .pCopy rd rs1 => Sys2Proof.Machine.execPCopy rd rs1 s

end Sys2Proof.Machine
end

