-- ==== Sys2Proof/Machine/Flags.lean ====
section
/-! DEFINITION. STATUS, CTRL and the interrupt output (spec 10_state.md R17, R18, R29). DQA has no arithmetic flag: no
command computes a carry, an overflow or a zero flag (R17). -/

namespace Sys2Proof.Machine

/-- STATUS as a word (R17): BUSY 0, DONE 1, ERR 2, EOVF 3, ERRCODE 11:8; reserved bits read 0. -/
def statusWord (s : State) : Word :=
  (0#20 ++ s.errcode ++ 0#4 ++ BitVec.ofBool s.eovf ++ BitVec.ofBool s.err ++ BitVec.ofBool s.done
    ++ BitVec.ofBool s.busy : BitVec 32)

/-- CTRL as a word (R18): IE_DONE 0, IE_ERR 1; reserved bits and SRST read 0. -/
def ctrlWord (s : State) : Word := (0#30 ++ BitVec.ofBool s.ieErr ++ BitVec.ofBool s.ieDone : BitVec 32)

/-- A host write to STATUS (R17, R39, R107): only the write-1-to-clear bits DONE and ERR act. -/
def writeStatus (v : Word) (s : State) : State :=
  let s := if v.getLsbD 1 then clearDone s else s
  if v.getLsbD 2 then clearError s else s

/-- A host write to CTRL (R18): SRST resets and the rest of the word is then ignored (R116); otherwise the two enables
take their bits. -/
def writeCtrl (v : Word) (s : State) : State :=
  if v.getLsbD 31 then resetBlock s
  else { s with ieDone := v.getLsbD 0, ieErr := v.getLsbD 1 }

/-- The interrupt output (R29, R105). -/
def irq (s : State) : Bool := (s.done && s.ieDone) || (s.err && s.ieErr)

end Sys2Proof.Machine
end

