-- ==== Sys2Proof/Machine/HostPort.lean ====
section
/-! DEFINITION. The host port (spec 20_memory.md R30 to R41): the address map, the checks of an access in the order of
60_exceptions.md R104, and the effect of each read and write. -/

namespace Sys2Proof.Machine

open Config

/-- What an aligned word address names (R31). -/
inductive Target where
  | id
  | cmd
  | status
  | ctrl
  | errinfo
  | cmdcount
  | hwcfg
  /-- S[i] (R32). -/
  | scalar (i : SReg)
  /-- ZETAS[k] (R34). -/
  | zetas (k : Nat)
  /-- ZETAS_INV[k], and the word after the last entry (R34). -/
  | zetasInv (k : Nat)
  /-- P[r][k] (R33). -/
  | coeff (r : PReg) (k : Fin 256)
  /-- No register: reads 0, ignores writes (R38). -/
  | reserved
  deriving DecidableEq, Repr

/-- The address map of R31, for an aligned address. -/
def target (a : Addr) : Target :=
  let n := a.toNat
  if n = 0x0000 then .id
  else if n = 0x0004 then .cmd
  else if n = 0x0008 then .status
  else if n = 0x000C then .ctrl
  else if n = 0x0010 then .errinfo
  else if n = 0x0014 then .cmdcount
  else if n = 0x0018 then .hwcfg
  else if 0x0100 ≤ n ∧ n < 0x0180 then .scalar (Fin.ofNat 32 ((n - 0x0100) / 4))
  else if 0x0400 ≤ n ∧ n < 0x0800 then .zetas ((n - 0x0400) / 4)
  else if 0x0800 ≤ n ∧ n < 0x0C00 then .zetasInv ((n - 0x0800) / 4)
  else if 0x8000 ≤ n then .coeff (a.extractLsb' 10 5).toFin (a.extractLsb' 2 8).toFin
  else .reserved

/-- The S and P ranges, which the port refuses while busy (R41). -/
def Target.isRegisterFile : Target → Bool
  | .scalar _ => true
  | .coeff _ _ => true
  | .id => false
  | .cmd => false
  | .status => false
  | .ctrl => false
  | .errinfo => false
  | .cmdcount => false
  | .hwcfg => false
  | .zetas _ => false
  | .zetasInv _ => false
  | .reserved => false

/-- The error an access raises before it does anything, if any: MISALIGNED first, then ACCESS_BUSY (R104). -/
def accessError (a : Addr) (size : Nat) (s : State) : Option ErrCode :=
  if size ≠ 4 ∨ a.toNat % 4 ≠ 0 then some .misaligned
  else if s.busy ∧ (target a).isRegisterFile then some .accessBusy
  else none

/-- The word an allowed read returns (R31 to R34, R38, R39). -/
def readTarget (s : State) : Target → Word
  | .id => ID
  | .cmd => 0
  | .status => statusWord s
  | .ctrl => ctrlWord s
  | .errinfo => s.errinfo
  | .cmdcount => s.cmdcount
  | .hwcfg => HWCFG
  | .scalar i => s.readS i
  | .zetas k => ZETAS.getD k 0
  | .zetasInv k => ZETAS_INV.getD k 0
  | .coeff r k => s.readCoeff r k
  | .reserved => 0

/-- The fault record a read makes: only of an unwritten coefficient (R16); a read changes nothing else (R40). -/
def noteRead (s : State) : Target → State
  | .coeff r k => s.consumeCoeff r k
  | .id => s
  | .cmd => s
  | .status => s
  | .ctrl => s
  | .errinfo => s
  | .cmdcount => s
  | .hwcfg => s
  | .scalar _ => s
  | .zetas _ => s
  | .zetasInv _ => s
  | .reserved => s

/-- A write of a word to CMD (R26): refused while busy, else decoded, else accepted. -/
def writeCmd (v : Word) (s : State) : State :=
  if s.busy then raiseError .cmdBusy v s
  else
    match decode v with
    | .error e => raiseError e v s
    | .ok _ => accept v s

/-- The effect of an allowed write (R31 to R34, R38, R39). -/
def writeTarget (v : Word) (s : State) : Target → State
  | .cmd => writeCmd v s
  | .status => writeStatus v s
  | .ctrl => writeCtrl v s
  | .scalar i => s.writeS i v
  | .coeff r k => s.writeCoeff r k v
  | .id => s
  | .errinfo => s
  | .cmdcount => s
  | .hwcfg => s
  | .zetas _ => s
  | .zetasInv _ => s
  | .reserved => s

/-- A host read of `size` bytes at `a` (R35, R36, R41): a refused read returns 0. -/
def hostRead (a : Addr) (size : Nat) (s : State) : State :=
  match accessError a size s with
  | some e => { raiseError e (a.setWidth 32) s with lastRead := some 0 }
  | none => { noteRead s (target a) with lastRead := some (readTarget s (target a)) }

/-- A host write of `size` bytes at `a` (R35, R36, R41): a refused write changes nothing. -/
def hostWrite (a : Addr) (size : Nat) (v : Word) (s : State) : State :=
  match accessError a size s with
  | some e => raiseError e (a.setWidth 32) s
  | none => writeTarget v s (target a)

end Sys2Proof.Machine
end

