-- ==== Sys2Proof/Machine/Engine.lean ====
section
/-! DEFINITION. The steps of DQA's two agents (spec 10_state.md R12): the engine's step (R27) and one event of the outside
world, and the placing of a command in CLATCH. -/

namespace Sys2Proof.Machine

/-- The engine's step (R27): enabled exactly when busy, it performs the command in CLATCH; an idle engine does
nothing (R114). -/
def engineStep (s : State) : Host.Outcome State Fault Refusal :=
  match s.engine with
  | .idle => .next s
  | .busy v =>
    match decode v with
    | .ok i => exec i s
    | .error _ => .fault .undecodableLatch

/-- One event of the outside world. While rst_n is low the port accepts no access (R115, 93 entry U20): the access does
not take place. The reset values appear when rst_n goes low: assumption log entry 4 (DEDUCED). -/
def eventStep (e : Event) (s : State) : Host.Outcome State Fault Refusal :=
  match e with
  | .read a size => .next (if s.inReset then s else hostRead a size s)
  | .write a size v => .next (if s.inReset then s else hostWrite a size v s)
  | .engineTurn => engineStep s
  | .assertReset => .next { resetBlock s with inReset := true }
  | .releaseReset => .next { s with inReset := false }
  | .powerCycle => .next (powerCycle s)

/-- The next event if one is pending; else the engine's step. -/
def stepOnce (s : State) : Host.Outcome State Fault Refusal :=
  match s.events with
  | [] => engineStep s
  | e :: rest => eventStep e { s with events := rest }

/-- The state in which the command `v` has just been accepted and the engine moves next. -/
def latchCommand (v : Word) (s : State) : State :=
  { s with engine := .busy v, events := .engineTurn :: s.events }

end Sys2Proof.Machine
end

