-- ==== Sys2Proof/Machine/Step.lean ====
section
/-! DEFINITION. One step of the machine, and where a command is placed for the next step to run it. -/

namespace Sys2Proof.Machine

/-- One step: the first pending event of the outside world, or the engine's step when none is pending (R12, R42). -/
def step (s : State) : Host.Outcome State Fault Refusal := stepOnce s

/-- The command word `w` of `nbits` bits stands in CLATCH, accepted, and the engine moves next. DQA fetches nothing
(R13): CLATCH is where the engine's step takes its command from (R26, R27). Assumption log entry 3. -/
def State.withFetchWord (s : State) (nbits w : Nat) : State := latchCommand (BitVec.ofNat 32 (w % 2 ^ nbits)) s

end Sys2Proof.Machine
end

