-- ==== Sys2Proof/Machine/HostProgram.lean ====
section
/-! DEFINITION. The host side's notation (spec 30_encoding.md R56 to R58): the assembly text of a command, host programs
and the pseudo-instructions, over the port of Machine/HostPort.lean. The host is outside the block (R3, R57): nothing of
State depends on this file. -/

namespace Sys2Proof.Machine

/-- A scalar register's name (R56). -/
def sName (i : SReg) : String := "s" ++ toString i.val

/-- A polynomial register's name (R56). -/
def pName (r : PReg) : String := "p" ++ toString r.val

/-- A mnemonic and its operands in the order of R51's operand column (R56). -/
def asmLine (mnemonic : String) (ops : List String) : String := mnemonic ++ " " ++ String.intercalate ", " ops

/-- The assembly text of a command (R56). -/
def assembly : Instr → String
  | .nop => "NOP"
  | .sRed32 rd rs1 => asmLine "S.RED32" [sName rd, sName rs1]
  | .sCsubq rd rs1 => asmLine "S.CSUBQ" [sName rd, sName rs1]
  | .sFreeze rd rs1 => asmLine "S.FREEZE" [sName rd, sName rs1]
  | .sMont rd rs1 rs2 => asmLine "S.MONT" [sName rd, sName rs1, sName rs2]
  | .sMontmul rd rs1 rs2 => asmLine "S.MONTMUL" [sName rd, sName rs1, sName rs2]
  | .sP2r rd rs1 re => asmLine "S.P2R" [sName rd, sName re, sName rs1]
  | .sDecomp rd rs1 re => asmLine "S.DECOMP" [sName rd, sName re, sName rs1]
  | .sMkhint rd rs1 rs2 => asmLine "S.MKHINT" [sName rd, sName rs1, sName rs2]
  | .sUsehint rd rs1 rs2 => asmLine "S.USEHINT" [sName rd, sName rs1, sName rs2]
  | .pRed32 rd rs1 => asmLine "P.RED32" [pName rd, pName rs1]
  | .pCsubq rd rs1 => asmLine "P.CSUBQ" [pName rd, pName rs1]
  | .pFreeze rd rs1 => asmLine "P.FREEZE" [pName rd, pName rs1]
  | .pP2r rd rs1 re => asmLine "P.P2R" [pName rd, pName re, pName rs1]
  | .pDecomp rd rs1 re => asmLine "P.DECOMP" [pName rd, pName re, pName rs1]
  | .pMkhint rd rs1 rs2 re => asmLine "P.MKHINT" [pName rd, pName rs1, pName rs2, sName re]
  | .pUsehint rd rs1 rs2 => asmLine "P.USEHINT" [pName rd, pName rs1, pName rs2]
  | .pNtt rd rs1 => asmLine "P.NTT" [pName rd, pName rs1]
  | .pInvntt rd rs1 => asmLine "P.INVNTT" [pName rd, pName rs1]
  | .pPwmul rd rs1 rs2 => asmLine "P.PWMUL" [pName rd, pName rs1, pName rs2]
  | .pPwacc rd rs1 rs2 n => asmLine "P.PWACC" [pName rd, pName rs1, pName rs2, toString n.val]
  | .pPolymul rd rs1 rs2 => asmLine "P.POLYMUL" [pName rd, pName rs1, pName rs2]
  | .pZero rd => asmLine "P.ZERO" [pName rd]
  | .pCopy rd rs1 => asmLine "P.COPY" [pName rd, pName rs1]

/-- One line of a host program (R57). A label is the index of the line it names. -/
inductive HostLine where
  /-- `WR addr, v`. -/
  | wr (addr : Addr) (v : Word)
  /-- `RD addr -> t`; the host variable `t` is a number. -/
  | rd (addr : Addr) (t : Nat)
  /-- `BNZ t, mask, label`. -/
  | bnz (t : Nat) (mask : Word) (label : Nat)
  /-- `B label`. -/
  | b (label : Nat)
  /-- `HALT`. -/
  | halt
  deriving DecidableEq, Repr

/-- The host's own state: where its program is, and its variables, the latest assignment first. -/
structure HostVars where
  line : Nat
  vars : List (Nat × Word)
  deriving DecidableEq, Repr

/-- The value of a host variable; one that nothing has assigned reads 0 (assumption log entry 10:
DESIGN CHOICE). -/
def HostVars.get (h : HostVars) (t : Nat) : Word := (h.vars.lookup t).getD 0

/-- The host executes its next line (R57). With rst_n low it takes no step (R115); at HALT or past the end it stays. -/
def hostLineStep (prog : List HostLine) (h : HostVars) (s : State) : HostVars × State :=
  if s.inReset then (h, s)
  else
    match prog[h.line]? with
    | none => (h, s)
    | some .halt => (h, s)
    | some (.wr a v) => ({ h with line := h.line + 1 }, hostWrite a 4 v s)
    | some (.rd a t) =>
      let s' := hostRead a 4 s
      ({ line := h.line + 1, vars := (t, s'.lastRead.getD 0) :: h.vars }, s')
    | some (.bnz t mask label) =>
      ({ h with line := if h.get t &&& mask ≠ 0 then label else h.line + 1 }, s)
    | some (.b label) => ({ h with line := label }, s)

/-- One step of the host's program and the block together: the engine's (R27) or the host's, as `engineMoves` says
(R12, R42). -/
def systemStep (prog : List HostLine) (engineMoves : Bool) (x : HostVars × State) :
    Host.Outcome (HostVars × State) Fault Refusal :=
  if engineMoves then
    match engineStep x.2 with
    | .next s => .next (x.1, s)
    | .fault f => .fault f
    | .refused r => .refused r
  else .next (hostLineStep prog x.1 x.2)

/-- `CMD c` (R57). -/
def cmdLine (c : Instr) : HostLine := .wr 0x0004 (encode c)

/-- `WAIT` standing at line `at0`, with host variable `t` (R58). -/
def waitLines (at0 t : Nat) : List HostLine := [.rd 0x0008 t, .bnz t 1 at0]

/-- `EXEC c` for each of the commands in turn, from line `at0`: three lines each (R58). -/
def execLines (at0 t : Nat) : List Instr → List HostLine
  | [] => []
  | c :: cs => cmdLine c :: waitLines (at0 + 1) t ++ execLines (at0 + 3) t cs

/-- `LDS si, v` (R58). -/
def ldsLine (i : SReg) (v : Word) : HostLine := .wr (BitVec.ofNat 16 (0x0100 + 4 * i.val)) v

/-- The address of a coefficient (R33). -/
def coeffAddr (r : PReg) (k : Nat) : Addr := BitVec.ofNat 16 (0x8000 + 4 * (256 * r.val + k))

/-- `LDP pr, [c0, ...]`: omitted entries are written 0 (R58). -/
def ldpLines (r : PReg) (cs : List Word) : List HostLine :=
  (List.range 256).map fun k => .wr (coeffAddr r k) (cs.getD k 0)

/-- `STP pr -> [..]` into the host variables from `t` on (R58). -/
def stpLines (r : PReg) (t : Nat) : List HostLine := (List.range 256).map fun k => .rd (coeffAddr r k) (t + k)

/-- `CLRERR` (R58). -/
def clrErrLine : HostLine := .wr 0x0008 0x00000004

/-- `CLRDONE` (R58). -/
def clrDoneLine : HostLine := .wr 0x0008 0x00000002

/-- Register number `r + i`, if it stays in 0..31 (R58). -/
def nthReg (r : Fin 32) (i : Nat) : Option (Fin 32) := if h : r.val + i < 32 then some ⟨r.val + i, h⟩ else none

/-- A vector expansion of R58: `EXEC` of the command made for each i in 0..n−1; no program if a register number leaves
0..31. -/
def vectorLines (at0 t n : Nat) (mk : Nat → Option Instr) : Option (List HostLine) :=
  ((List.range n).mapM mk).map (execLines at0 t)

/-- `NTTV pd, pa, n` (R58). -/
def nttvLines (at0 t : Nat) (pd pa : PReg) (n : Nat) : Option (List HostLine) :=
  vectorLines at0 t n fun i => return .pNtt (← nthReg pd i) (← nthReg pa i)

/-- `INVNTTV pd, pa, n` (R58). -/
def invnttvLines (at0 t : Nat) (pd pa : PReg) (n : Nat) : Option (List HostLine) :=
  vectorLines at0 t n fun i => return .pInvntt (← nthReg pd i) (← nthReg pa i)

/-- `FREEZEV pd, pa, n` (R58). -/
def freezevLines (at0 t : Nat) (pd pa : PReg) (n : Nat) : Option (List HostLine) :=
  vectorLines at0 t n fun i => return .pFreeze (← nthReg pd i) (← nthReg pa i)

/-- `P2RV phi, plo, pa, n` (R58). -/
def p2rvLines (at0 t : Nat) (phi plo pa : PReg) (n : Nat) : Option (List HostLine) :=
  vectorLines at0 t n fun i => return .pP2r (← nthReg phi i) (← nthReg pa i) (← nthReg plo i)

/-- `DECOMPV phi, plo, pa, n` (R58). -/
def decompvLines (at0 t : Nat) (phi plo pa : PReg) (n : Nat) : Option (List HostLine) :=
  vectorLines at0 t n fun i => return .pDecomp (← nthReg phi i) (← nthReg pa i) (← nthReg plo i)

/-- `USEHINTV pd, pa, ph, n` (R58). -/
def usehintvLines (at0 t : Nat) (pd pa ph : PReg) (n : Nat) : Option (List HostLine) :=
  vectorLines at0 t n fun i => return .pUsehint (← nthReg pd i) (← nthReg pa i) (← nthReg ph i)

/-- `MKHINTV pd, pa, pb, n, sc` (R58). -/
def mkhintvLines (at0 t : Nat) (pd pa pb : PReg) (n : Nat) (sc : SReg) : Option (List HostLine) :=
  (vectorLines (at0 + 1) t n fun i => return .pMkhint (← nthReg pd i) (← nthReg pa i) (← nthReg pb i) sc).map
    (ldsLine sc 0 :: ·)

/-- `MATVEC pd, pA, pv, k, l` (R58): needs A + l·k ≤ 32 and, by R54, 1 ≤ l and v + l ≤ 32. -/
def matvecLines (at0 t : Nat) (pd pA pv : PReg) (k l : Nat) : Option (List HostLine) :=
  if pA.val + l * k ≤ 32 ∧ 1 ≤ l ∧ pv.val + l ≤ 32 then
    vectorLines at0 t k fun i => do
      let n ← nthReg 0 l
      return .pPwacc (← nthReg pd i) (← nthReg pA (l * i)) pv n
  else none

end Sys2Proof.Machine
end

