-- ==== Sys2Proof/Safety.lean ====
section
/-! DEFINITION. The invariant of DQA's reachable states and what counts as a safe run (spec 10_state.md R16, R17, R25,
60_exceptions.md R102, 70_reset_and_hazards.md R115). -/

namespace Sys2Proof.Machine

/-- STATUS's error fields agree: with ERR = 0, EOVF, ERRCODE and ERRINFO are 0 (R17, R21, R102); with ERR = 1, ERRCODE
is one of the codes 1 to 6 (R102). -/
def State.ErrorFieldsAgree (s : State) : Prop :=
  (s.err = false → s.eovf = false ∧ s.errcode = 0 ∧ s.errinfo = 0) ∧
  (s.err = true → 1 ≤ s.errcode.toNat ∧ s.errcode.toNat ≤ 6)

/-- A latched command word is one that R26 accepts. -/
def State.LatchDecodes (s : State) : Prop := ∀ v, s.engine = .busy v → ∃ i, decode v = .ok i

/-- The values R118 gives after every reset, but for the P file: STATUS and CTRL as the host reads them, ERRINFO,
CMDCOUNT, every S[i], PHASE and CLATCH, irq. -/
structure State.HasResetValues (s : State) : Prop where
  status : statusWord s = 0
  ctrl : ctrlWord s = 0
  errinfo : s.errinfo = 0
  cmdcount : s.cmdcount = 0
  scalars : ∀ i, s.readS i = 0
  engine : s.engine = .idle
  irqLow : irq s = false

/-- With rst_n low every register has its value of R118, so it has it at the release too (R115). -/
def State.ResetHoldsValues (s : State) : Prop := s.inReset = true → s.HasResetValues

/-- The invariant. -/
structure State.Inv (s : State) : Prop where
  errorFields : s.ErrorFieldsAgree
  latch : s.LatchDecodes
  resetValues : s.ResetHoldsValues

/-- From `s` to `t` a command completed and did nothing outside the register files (R27): BUSY 0, DONE 1, CMDCOUNT one
more; every other field as before but S, P and the fault record of R16. -/
structure CompletedFrom (s t : State) : Prop where
  engine : t.engine = .idle
  done : t.done = true
  cmdcount : t.cmdcount = s.cmdcount + 1
  err : t.err = s.err
  eovf : t.eovf = s.eovf
  errcode : t.errcode = s.errcode
  errinfo : t.errinfo = s.errinfo
  ieDone : t.ieDone = s.ieDone
  ieErr : t.ieErr = s.ieErr
  inReset : t.inReset = s.inReset
  events : t.events = s.events
  lastRead : t.lastRead = s.lastRead
  unspecCount : t.unspecCount = s.unspecCount

/-- A state in which the model trusts the run: nothing has read or consumed an unwritten coefficient (R16). -/
def State.Trusted (s : State) : Prop := s.unwrittenUse = false

/-- A step that is safe: it goes on, to a state the model trusts. -/
def SafeStep (s : State) : Prop := ∃ t, step s = .next t ∧ t.Trusted

end Sys2Proof.Machine
end

