-- ==== Sys2Proof/Certificates/Slice0/Obligations.lean ====
section
/-! DEFINITION. The statements for the provers. The first part writes the arithmetic of the spec once more, on natural
numbers and integers and without the model's functions; the second part states, in those terms, what commands, host
accesses and steps do. -/

namespace Sys2Proof.SpecMath

open Sys2Proof.Config (Q QINV MONT ROOT ALPHA GAMMA2)
open Sys2Proof.Machine

/-- `cmod(v, m)` of R7. -/
def cmod (v m : Int) : Int := if v % m > m / 2 then v % m - m else v % m

/-- MREDC of R62 on natural numbers. -/
def mredcNat (a : Nat) : Nat := (a + a * QINV % 2 ^ 64 % 2 ^ 32 * Q) % 2 ^ 64 / 2 ^ 32

/-- MMUL of R63 on natural numbers. -/
def mmulNat (a b : Nat) : Nat := mredcNat (a * b)

/-- DECOMP of R74 on integers: (a1, a0). -/
def decompInt (a : Nat) : Int × Int :=
  let t0 : Int := (a % 2 ^ 19 + a / 2 ^ 19 * 2 ^ 9 : Nat) - (ALPHA / 2 + 1 : Nat)
  let t1 : Int := if t0 < 0 then t0 + ALPHA else t0
  let t : Int := t1 - (ALPHA / 2 - 1 : Nat)
  let b : Int := (a - t) % 2 ^ 32
  let u : Int := if b = 0 ∨ b > 2 ^ 31 then 1 else 0
  let h : Int := b / 2 ^ 19 + 1 - u
  (h % 16, (Q + t - h / 16) % 2 ^ 32)

/-- The high bits a1 of DECOMP (R74). -/
def highBits (a : Nat) : Int := (decompInt a).1

/-- HINT of R75: 1 when adding b moves a to another bucket. -/
def hintNat (a b : Nat) : Nat := if highBits a ≠ highBits ((a + b) % 2 ^ 32 % Q) then 1 else 0

/-- USEHINT of R76 on integers. -/
def useHintInt (a h : Nat) : Int :=
  if h = 0 then (decompInt a).1
  else if (decompInt a).2 > Q then ((decompInt a).1 + 1) % 16
  else ((decompInt a).1 - 1) % 16

/-- `brv8(k)` of R86: bit i of k moves to bit 7 − i. -/
def brv8 (k : Nat) : Nat := (List.range 8).foldl (fun acc i => acc + k / 2 ^ i % 2 * 2 ^ (7 - i)) 0

/-- ZETAS[k] by the formula of R86. -/
def zeta (k : Nat) : Nat := if k = 0 then 0 else MONT * ROOT ^ brv8 k % Q

/-- ZETAS_INV[m] by the closed form of R87. -/
def zetaInv (m : Nat) : Nat := Q - zeta (255 - m)

/-- The evaluation points of R91: ω_i = ROOT^(2·brv8(i) + 1) mod Q. -/
def omega (i : Nat) : Nat := ROOT ^ (2 * brv8 i + 1) % Q

/-- The inner loop body of R89 at lane j: both new values use the old p[j]. -/
def nttBody (z len : Nat) (p : Nat → Nat) (j : Nat) : Nat → Nat :=
  let t := mredcNat (z * p (j + len))
  Function.update (Function.update p (j + len) (((p j : Int) + 2 * Q - t) % 2 ^ 32).toNat) j ((p j + t) % 2 ^ 32)

/-- The inner loop body of R90 at lane j. -/
def inttBody (z len : Nat) (p : Nat → Nat) (j : Nat) : Nat → Nat :=
  let t := p j
  Function.update (Function.update p j ((t + p (j + len)) % 2 ^ 32)) (j + len)
    (mredcNat (z * (((t : Int) + 256 * Q - p (j + len)) % 2 ^ 32).toNat))

/-- The loops over blocks and lanes that R89 and R90 share: for each len of `lens`, for start = 0, 2·len, 4·len, ... below
256, take the next twiddle, then for j = start .. start + len − 1 do the body; the lanes and the next twiddle number. -/
def passLoop (body : Nat → Nat → (Nat → Nat) → Nat → Nat → Nat) (twiddle : Nat → Nat) (lens : List Nat)
    (p : Nat → Nat) (k : Nat) : (Nat → Nat) × Nat :=
  lens.foldl (fun pk len =>
    ((List.range (256 / (2 * len))).map fun b => 2 * len * b).foldl (fun pk start =>
      ((List.range' start len).foldl (body (twiddle pk.2) len) pk.1, pk.2 + 1)) pk) (p, k)

/-- NTT as the loop of R89. -/
def nttLoop (a : Nat → Nat) : Nat → Nat := (passLoop nttBody zeta [128, 64, 32, 16, 8, 4, 2, 1] a 1).1

/-- INTT as the loop of R90, with the final scaling by F_INV = 41978 (R88). -/
def inttLoop (a : Nat → Nat) : Nat → Nat := fun j =>
  mredcNat (41978 * (passLoop inttBody zetaInv [1, 2, 4, 8, 16, 32, 64, 128] a 0).1 j)

/-- Coefficient k of the product of a and b modulo X^256 + 1 (R97): the schoolbook sum, over the integers. -/
def negacyclic (a b : Fin 256 → Nat) (k : Fin 256) : Int :=
  ∑ i : Fin 256, ∑ j : Fin 256,
    if i.val + j.val = k.val then (a i * b j : Int) else if i.val + j.val = k.val + 256 then -(a i * b j : Int) else 0

/-- The coefficients of P[r] as numbers. -/
def coeffs (s : State) (r : PReg) : Fin 256 → Nat := fun k => (s.readCoeff r k).toNat

/-- The coefficients of P[r] as the array of a loop. -/
def laneArray (s : State) (r : PReg) : Nat → Nat := fun j => if h : j < 256 then coeffs s r ⟨j, h⟩ else 0

/-- The frame of a scalar command with destinations `dsts`: every other scalar register and every coefficient of every
polynomial register is as before, and the rest of the state as R27 says. -/
def ScalarFrame (dsts : List SReg) (s t : State) : Prop :=
  CompletedFrom s t ∧ (∀ i, i ∉ dsts → t.readS i = s.readS i) ∧ (∀ r k, t.coeff r k = s.coeff r k)

/-- The frame of a polynomial command with polynomial destinations `pdsts` and scalar destinations `sdsts`: everything
else is as before, and every coefficient of a polynomial destination counts as written (R16). -/
def PolyFrame (pdsts : List PReg) (sdsts : List SReg) (s t : State) : Prop :=
  CompletedFrom s t ∧ (∀ i, i ∉ sdsts → t.readS i = s.readS i) ∧ (∀ r, r ∉ pdsts → ∀ k, t.coeff r k = s.coeff r k) ∧
  (∀ r, r ∈ pdsts → ∀ k, (t.coeff r k).isUnwritten = false)

/-- The polynomial registers a command consumes (R16, the pseudocode of R70 to R100). -/
def polySources : Instr → List PReg
  | .pRed32 _ a => [a]
  | .pCsubq _ a => [a]
  | .pFreeze _ a => [a]
  | .pP2r _ a _ => [a]
  | .pDecomp _ a _ => [a]
  | .pMkhint _ a b _ => [a, b]
  | .pUsehint _ a b => [a, b]
  | .pNtt _ a => [a]
  | .pInvntt _ a => [a]
  | .pPwmul _ a b => [a, b]
  | .pPwacc _ u v n => (List.range n.val).map (fun j => Fin.ofNat 32 (u.val + j)) ++
      (List.range n.val).map (fun j => Fin.ofNat 32 (v.val + j))
  | .pPolymul _ a b => [a, b]
  | .pCopy _ a => [a]
  | .nop => []
  | .sRed32 _ _ => []
  | .sCsubq _ _ => []
  | .sFreeze _ _ => []
  | .sMont _ _ _ => []
  | .sMontmul _ _ _ => []
  | .sP2r _ _ _ => []
  | .sDecomp _ _ _ => []
  | .sMkhint _ _ _ => []
  | .sUsehint _ _ _ => []
  | .pZero _ => []

/-- A polynomial command with one source lifts a scalar one lane by lane (R11): it completes with its frame, and
coefficient k of its result is what the scalar command makes of coefficient k of its source. -/
def LiftsUnary (p : PReg → PReg → Instr) (f : SReg → SReg → Instr) : Prop :=
  ∀ rd rs1 s, ∃ t, exec (p rd rs1) s = .next t ∧ PolyFrame [rd] [] s t ∧
    ∀ k x y u, u.readS y = s.readCoeff rs1 k → ∃ u', exec (f x y) u = .next u' ∧ t.readCoeff rd k = u'.readS x

/-- The same for two sources. -/
def LiftsBinary (p : PReg → PReg → PReg → Instr) (f : SReg → SReg → SReg → Instr) : Prop :=
  ∀ rd rs1 rs2 s, ∃ t, exec (p rd rs1 rs2) s = .next t ∧ PolyFrame [rd] [] s t ∧
    ∀ k x y z u, u.readS y = s.readCoeff rs1 k → u.readS z = s.readCoeff rs2 k →
      ∃ u', exec (f x y z) u = .next u' ∧ t.readCoeff rd k = u'.readS x

/-- The same for the split commands, whose two destinations differ (R54). -/
def LiftsSplit (p : PReg → PReg → PReg → Instr) (f : SReg → SReg → SReg → Instr) : Prop :=
  ∀ rd rs1 re s, rd ≠ re → ∃ t, exec (p rd rs1 re) s = .next t ∧ PolyFrame [rd, re] [] s t ∧
    ∀ k x y z u, x ≠ z → u.readS y = s.readCoeff rs1 k →
      ∃ u', exec (f x y z) u = .next u' ∧ t.readCoeff rd k = u'.readS x ∧ t.readCoeff re k = u'.readS z

/-- Run commands one after another. -/
def execAll : List Instr → State → Host.Outcome State Fault Refusal
  | [], s => .next s
  | i :: is, s =>
    match exec i s with
    | .next t => execAll is t
    | .fault r => .fault r
    | .refused r => .refused r

/-- The opcodes that R55 lists as unassigned. -/
def Unassigned (o : Nat) : Prop := (0x0A ≤ o ∧ o ≤ 0x0F) ∨ o = 0x17 ∨ o = 0x1D ∨ (0x20 ≤ o ∧ o ≤ 0x3F)

/-- The write to CTRL that performs a soft reset (R116). -/
def IsSoftReset (a : Addr) (size : Nat) (v : Word) : Prop := a = 0x000C ∧ size = 4 ∧ v.getLsbD 31 = true

/-- The engine takes its step next: no event stands before it, and it is busy. -/
def EngineCompletes (s : State) : Prop :=
  s.engine ≠ .idle ∧ (s.events = [] ∨ ∃ rest, s.events = .engineTurn :: rest)

/-- The next event is a reset of the block: rst_n, the power, or the soft reset. -/
def ResetsNext (s : State) : Prop :=
  ∃ e rest, s.events = e :: rest ∧
    (e = .assertReset ∨ e = .powerCycle ∨
      (s.inReset = false ∧ ∃ a size v, e = .write a size v ∧ IsSoftReset a size v))

/-- The next event is a host write, with the port open, of a word with property `p` to the address `a`. -/
def HostWritesNext (s : State) (a : Addr) (p : Word → Prop) : Prop :=
  s.inReset = false ∧ ∃ v rest, s.events = .write a 4 v :: rest ∧ p v

/-- The polynomial registers that hold unspecified values when a command is aborted (R117): P[rd] of a polynomial
command, and also P[re] of P.P2R and P.DECOMP. -/
def polyDestinations : Instr → List PReg
  | .pP2r rd _ re => [rd, re]
  | .pDecomp rd _ re => [rd, re]
  | .pRed32 rd _ => [rd]
  | .pCsubq rd _ => [rd]
  | .pFreeze rd _ => [rd]
  | .pMkhint rd _ _ _ => [rd]
  | .pUsehint rd _ _ => [rd]
  | .pNtt rd _ => [rd]
  | .pInvntt rd _ => [rd]
  | .pPwmul rd _ _ => [rd]
  | .pPwacc rd _ _ _ => [rd]
  | .pPolymul rd _ _ => [rd]
  | .pZero rd => [rd]
  | .pCopy rd _ => [rd]
  | .nop => []
  | .sRed32 _ _ => []
  | .sCsubq _ _ => []
  | .sFreeze _ _ => []
  | .sMont _ _ _ => []
  | .sMontmul _ _ _ => []
  | .sP2r _ _ _ => []
  | .sDecomp _ _ _ => []
  | .sMkhint _ _ _ => []
  | .sUsehint _ _ _ => []

end Sys2Proof.SpecMath

open Sys2Proof Sys2Proof.Machine Sys2Proof.SpecMath
open Sys2Proof.Config (Q QINV MONT ROOT ALPHA GAMMA2)

/-! ### Encoding -/

/-- Decoding the word of a well-formed command gives the command back, with every operand (R49, R51, R54, R56). -/
def Obligations.DecodeInvertsEncode : Prop := ∀ i : Instr, i.WellFormed → decode (encode i) = .ok i

/-- R53: a word that decodes is the one word of its command; a nonzero reserved or unused bit is RESERVED_FIELD, never
ignored; NOP is exactly the word 0. -/
def Obligations.ValidWordIsOneCommand : Prop :=
  (∀ v i, decode v = .ok i → i.WellFormed ∧ encode i = v) ∧
  (∀ v, (∃ i, opcField (encode i) = opcField v) → (∀ i, encode i ≠ v) → decode v = .error .reservedField) ∧
  (∀ v, decode v = .ok .nop ↔ v = 0)

/-- R52, R54, R55: which word gets which decode error, in that order of checks; BAD_OPERAND is exactly a split command with
rd = re, or a P.PWACC with n = 0 or a vector past P31. -/
def Obligations.DecodeErrorsInOrder : Prop :=
  ∀ v, (decode v = .error .illegalOpcode ↔ Unassigned (opcField v)) ∧
    (decode v = .error .reservedField ↔ ¬ Unassigned (opcField v) ∧ ∀ i, encode i ≠ v) ∧
    (decode v = .error .badOperand ↔
      (∃ rd rs1, encode (.sP2r rd rs1 rd) = v) ∨ (∃ rd rs1, encode (.sDecomp rd rs1 rd) = v) ∨
      (∃ rd rs1, encode (.pP2r rd rs1 rd) = v) ∨ (∃ rd rs1, encode (.pDecomp rd rs1 rd) = v) ∨
      (∃ rd rs1 rs2 n, encode (.pPwacc rd rs1 rs2 n) = v ∧
        (n.val = 0 ∨ 32 < rs1.val + n.val ∨ 32 < rs2.val + n.val))) ∧
    (∀ e, decode v = .error e → e = .illegalOpcode ∨ e = .reservedField ∨ e = .badOperand)

/-- Words written out from R51's patterns decode to the commands they stand for (a check on single words). -/
def Obligations.SpecWordsDecode : Prop :=
  decode 0x00000000 = .ok .nop ∧ decode 0b00000100010000010000000000000000 = .ok (.sRed32 2 1) ∧
  decode 0x10611000 = .ok (.sMont 3 1 2) ∧ decode 0x184100C0 = .ok (.sP2r 2 1 3) ∧
  decode 0x546111C0 = .ok (.pMkhint 3 1 2 7) ∧ decode 0x60200000 = .ok (.pNtt 1 0) ∧
  decode 0x6D043080 = .ok (.pPwacc 8 4 6 2) ∧ decode 0x79200000 = .ok (.pZero 9) ∧
  decode 0x28000000 = .error .illegalOpcode ∧ decode 0x04410001 = .error .reservedField ∧
  decode 0x6C1E00C0 = .error .badOperand

/-! ### Scalar reductions -/

/-- S.RED32 (R59, R65). -/
def Obligations.SRed32Result : Prop :=
  ∀ rd rs1 s, ∃ t, exec (.sRed32 rd rs1) s = .next t ∧ ScalarFrame [rd] s t ∧
    let a := (s.readS rs1).toNat
    (t.readS rd).toNat = a % 2 ^ 23 + a / 2 ^ 23 * (2 ^ 13 - 1) ∧ (t.readS rd).toNat % Q = a % Q ∧
      (t.readS rd).toNat ≤ 12574208

/-- S.CSUBQ (R60, R66). -/
def Obligations.SCsubqResult : Prop :=
  ∀ rd rs1 s, ∃ t, exec (.sCsubq rd rs1) s = .next t ∧ ScalarFrame [rd] s t ∧
    let a := (s.readS rs1).toNat
    (t.readS rd).toNat = (if Q ≤ a ∧ a < Q + 2 ^ 31 then a - Q else a) ∧ (a < 2 * Q → (t.readS rd).toNat = a % Q)

/-- S.FREEZE (R61, R67): the canonical residue, for every input. -/
def Obligations.SFreezeResult : Prop :=
  ∀ rd rs1 s, ∃ t, exec (.sFreeze rd rs1) s = .next t ∧ ScalarFrame [rd] s t ∧
    (t.readS rd).toNat = (s.readS rs1).toNat % Q

/-- S.MONT (R62, R68): the 64-bit input is S[rs2]·2^32 + S[rs1]; the wrap of the sum; the congruence and the bound where
R62 gives them. -/
def Obligations.SMontResult : Prop :=
  ∀ rd rs1 rs2 s, ∃ t, exec (.sMont rd rs1 rs2) s = .next t ∧ ScalarFrame [rd] s t ∧
    let a := (s.readS rs2).toNat * 2 ^ 32 + (s.readS rs1).toNat
    let r := (t.readS rd).toNat
    r = mredcNat a ∧ (a + a * QINV % 2 ^ 64 % 2 ^ 32 * Q < 2 ^ 64 → r * 2 ^ 32 % Q = a % Q) ∧
      (a ≤ 2 ^ 64 - 1 - (2 ^ 32 - 1) * Q → a + a * QINV % 2 ^ 64 % 2 ^ 32 * Q < 2 ^ 64) ∧
      (a < Q * 2 ^ 32 → r < 2 * Q)

/-- S.MONTMUL (R63, R69). -/
def Obligations.SMontmulResult : Prop :=
  ∀ rd rs1 rs2 s, ∃ t, exec (.sMontmul rd rs1 rs2) s = .next t ∧ ScalarFrame [rd] s t ∧
    let a := (s.readS rs1).toNat
    let b := (s.readS rs2).toNat
    let r := (t.readS rd).toNat
    r = mmulNat a b ∧ (a * b < Q * 2 ^ 32 → r < 2 * Q ∧ r * 2 ^ 32 % Q = a * b % Q) ∧
      (a < Q ∨ (a ≤ 189719838 ∧ b ≤ 189719838) → a * b < Q * 2 ^ 32)

/-! ### Scalar rounding and hints -/

/-- S.P2R (R73, R78), for every input: the low part is stored as signed + Q, the high part comes from the wrapped
difference. -/
def Obligations.SP2rResult : Prop :=
  ∀ rd rs1 re s, rd ≠ re → ∃ t, exec (.sP2r rd rs1 re) s = .next t ∧ ScalarFrame [rd, re] s t ∧
    let a := (s.readS rs1).toNat
    let c := cmod a (2 ^ 14)
    ((t.readS rd).toNat : Int) = (a - c) % 2 ^ 32 / 2 ^ 14 ∧ ((t.readS re).toNat : Int) = Q + c

/-- S.P2R on canonical inputs is the unique decomposition (R77 item 1). -/
def Obligations.SP2rDecomposesCanonical : Prop :=
  ∀ rd rs1 re s, rd ≠ re → (s.readS rs1).toNat < Q → ∃ t, exec (.sP2r rd rs1 re) s = .next t ∧
    let a : Int := (s.readS rs1).toNat
    let a1 : Int := (t.readS rd).toNat
    let a0 : Int := (t.readS re).toNat - Q
    a = a1 * 2 ^ 14 + a0 ∧ -8191 ≤ a0 ∧ a0 ≤ 8192 ∧ 0 ≤ a1 ∧ a1 ≤ 511 ∧
      ∀ b1 b0 : Int, a = b1 * 2 ^ 14 + b0 → -8191 ≤ b0 → b0 ≤ 8192 → b1 = a1 ∧ b0 = a0

/-- S.DECOMP (R74, R79), for every input, by the integer steps of R74. -/
def Obligations.SDecompResult : Prop :=
  ∀ rd rs1 re s, rd ≠ re → ∃ t, exec (.sDecomp rd rs1 re) s = .next t ∧ ScalarFrame [rd, re] s t ∧
    let a := (s.readS rs1).toNat
    ((t.readS rd).toNat : Int) = (decompInt a).1 ∧ ((t.readS re).toNat : Int) = (decompInt a).2 ∧
      (t.readS rd).toNat ≤ 15

/-- S.DECOMP on canonical inputs (R74's list, R77 item 2): the boundary bucket, and every other one. -/
def Obligations.SDecompDecomposesCanonical : Prop :=
  ∀ rd rs1 re s, rd ≠ re → (s.readS rs1).toNat < Q → ∃ t, exec (.sDecomp rd rs1 re) s = .next t ∧
    let a : Int := (s.readS rs1).toNat
    let r := cmod a ALPHA
    let a1 : Int := (t.readS rd).toNat
    let a0 : Int := (t.readS re).toNat
    (a - r = Q - 1 → a1 = 0 ∧ a0 = Q + r - 1) ∧ (a - r ≠ Q - 1 → a1 * ALPHA = a - r ∧ a0 = Q + r) ∧
      (a1 * ALPHA + (a0 - Q)) % Q = a % Q ∧ -261888 ≤ a0 - Q ∧ a0 - Q ≤ 261888

/-- S.MKHINT (R75, R80). -/
def Obligations.SMkhintResult : Prop :=
  ∀ rd rs1 rs2 s, ∃ t, exec (.sMkhint rd rs1 rs2) s = .next t ∧ ScalarFrame [rd] s t ∧
    (t.readS rd).toNat = hintNat (s.readS rs1).toNat (s.readS rs2).toNat

/-- S.USEHINT (R76, R81): any nonzero hint counts as set. -/
def Obligations.SUsehintResult : Prop :=
  ∀ rd rs1 rs2 s, ∃ t, exec (.sUsehint rd rs1 rs2) s = .next t ∧ ScalarFrame [rd] s t ∧
    ((t.readS rd).toNat : Int) = useHintInt (s.readS rs1).toNat (s.readS rs2).toNat ∧ (t.readS rd).toNat ≤ 15

/-- The hint law (R77 item 4): for canonical a and b with the centred b within GAMMA2, the hint made of (a, b) and used
on a gives the high bits of a + b. With rh = ra the hint overwrites a before it is used, and the law does not speak of
that. -/
def Obligations.HintRecoversHighBits : Prop :=
  ∀ s ra rb rh rd, rh ≠ ra → (s.readS ra).toNat < Q → (s.readS rb).toNat < Q →
    ((s.readS rb).toNat ≤ GAMMA2 ∨ Q - GAMMA2 ≤ (s.readS rb).toNat) →
    ∃ t, execAll [.sMkhint rh ra rb, .sUsehint rd ra rh] s = .next t ∧
      ((t.readS rd).toNat : Int) = highBits (((s.readS ra).toNat + (s.readS rb).toNat) % Q)

/-! ### Lane-wise polynomial commands -/

/-- P.RED32, P.CSUBQ and P.FREEZE lift their scalar commands lane by lane (R11, R70, R71, R72). -/
def Obligations.PolyReductionsLift : Prop :=
  LiftsUnary .pRed32 .sRed32 ∧ LiftsUnary .pCsubq .sCsubq ∧ LiftsUnary .pFreeze .sFreeze

/-- P.P2R and P.DECOMP lift their scalar commands lane by lane (R11, R82, R83). -/
def Obligations.PolySplitsLift : Prop := LiftsSplit .pP2r .sP2r ∧ LiftsSplit .pDecomp .sDecomp

/-- P.USEHINT lifts S.USEHINT lane by lane (R11, R85). -/
def Obligations.PolyUsehintLifts : Prop := LiftsBinary .pUsehint .sUsehint

/-- P.MKHINT (R84): the hints of each lane, and their number added to S[re] modulo 2^32. -/
def Obligations.PMkhintResult : Prop :=
  ∀ rd rs1 rs2 re s, ∃ t, exec (.pMkhint rd rs1 rs2 re) s = .next t ∧ PolyFrame [rd] [re] s t ∧
    (∀ k, coeffs t rd k = hintNat (coeffs s rs1 k) (coeffs s rs2 k)) ∧
    (t.readS re).toNat =
      ((s.readS re).toNat + ∑ k : Fin 256, hintNat (coeffs s rs1 k) (coeffs s rs2 k)) % 2 ^ 32

/-! ### Transforms -/

/-- P.NTT runs the loop of R89, with the twiddles of R86's formula, and writes its result in one step (R92). -/
def Obligations.PNttRunsLoop : Prop :=
  ∀ rd rs1 s, ∃ t, exec (.pNtt rd rs1) s = .next t ∧ PolyFrame [rd] [] s t ∧
    ∀ k, coeffs t rd k = nttLoop (laneArray s rs1) k.val

/-- P.INVNTT runs the loop of R90, with the twiddles of R87's closed form, and writes its result in one step (R93). -/
def Obligations.PInvnttRunsLoop : Prop :=
  ∀ rd rs1 s, ∃ t, exec (.pInvntt rd rs1) s = .next t ∧ PolyFrame [rd] [] s t ∧
    ∀ k, coeffs t rd k = inttLoop (laneArray s rs1) k.val

/-- The forward transform's growth (R89): with B the greatest input, below 2^32 − 16Q, every output is below B + 16Q. -/
def Obligations.PNttOutputBound : Prop :=
  ∀ rd rs1 s B, (∀ k, coeffs s rs1 k ≤ B) → B < 2 ^ 32 - 16 * Q →
    ∃ t, exec (.pNtt rd rs1) s = .next t ∧ ∀ k, coeffs t rd k < B + 16 * Q

/-- Every output of the inverse transform is below 2Q, for every input (R90). -/
def Obligations.PInvnttOutputBound : Prop :=
  ∀ rd rs1 s, ∃ t, exec (.pInvntt rd rs1) s = .next t ∧ ∀ k, coeffs t rd k < 2 * Q

/-- The forward transform evaluates the polynomial at the roots of X^256 + 1 (R91 item 1). -/
def Obligations.PNttEvaluates : Prop :=
  ∀ rd rs1 s, (∀ k, coeffs s rs1 k < 2 ^ 32 - 16 * Q) → ∃ t, exec (.pNtt rd rs1) s = .next t ∧
    ∀ i : Fin 256, coeffs t rd i % Q = (∑ j : Fin 256, coeffs s rs1 j * omega i.val ^ j.val) % Q

/-- The inverse transform is MONT times the true inverse, on inputs below 2Q (R91 item 2); ω_i^(−j) is written
ω_i^(512 − j). -/
def Obligations.PInvnttInterpolates : Prop :=
  ∀ rd rs1 s, (∀ k, coeffs s rs1 k < 2 * Q) → ∃ t, exec (.pInvntt rd rs1) s = .next t ∧
    ∀ j : Fin 256, coeffs t rd j * 256 % Q = MONT * (∑ i : Fin 256, coeffs s rs1 i * omega i.val ^ (512 - j.val)) % Q

/-- Transform, freeze, transform back and freeze: MONT times a canonical polynomial (R91 item 3, 90_conflicts.md C1). -/
def Obligations.TransformRoundTrip : Prop :=
  ∀ s r x, (∀ k, coeffs s r k < Q) →
    ∃ t, execAll [.pNtt x r, .pFreeze x x, .pInvntt x x, .pFreeze x x] s = .next t ∧
      ∀ k, coeffs t x k = MONT * coeffs s r k % Q

/-! ### Multiplier -/

/-- P.PWMUL (R94): MMUL lane by lane; the congruence and the bound where R63 gives them. -/
def Obligations.PPwmulResult : Prop :=
  ∀ rd rs1 rs2 s, ∃ t, exec (.pPwmul rd rs1 rs2) s = .next t ∧ PolyFrame [rd] [] s t ∧
    ∀ k, coeffs t rd k = mmulNat (coeffs s rs1 k) (coeffs s rs2 k) ∧
      (coeffs s rs1 k * coeffs s rs2 k < Q * 2 ^ 32 →
        coeffs t rd k < 2 * Q ∧ coeffs t rd k * 2 ^ 32 % Q = coeffs s rs1 k * coeffs s rs2 k % Q)

/-- P.PWACC (R95), for every well-formed command: the products reduced, added in 32 bits, frozen once. -/
def Obligations.PPwaccResult : Prop :=
  ∀ rd rs1 rs2 n s, (Instr.pPwacc rd rs1 rs2 n).WellFormed → ∃ t, exec (.pPwacc rd rs1 rs2 n) s = .next t ∧
    PolyFrame [rd] [] s t ∧
    ∀ k, coeffs t rd k =
      (∑ j ∈ Finset.range n.val,
        mmulNat (coeffs s (Fin.ofNat 32 (rs1.val + j)) k) (coeffs s (Fin.ofNat 32 (rs2.val + j)) k)) % 2 ^ 32 % Q

/-- P.PWACC is the inner product times 2^(−32), canonical, when every product is within MMUL's bound (R95). -/
def Obligations.PPwaccInnerProduct : Prop :=
  ∀ rd rs1 rs2 n s, (Instr.pPwacc rd rs1 rs2 n).WellFormed →
    (∀ j < n.val, ∀ k, coeffs s (Fin.ofNat 32 (rs1.val + j)) k * coeffs s (Fin.ofNat 32 (rs2.val + j)) k < Q * 2 ^ 32) →
    ∃ t, exec (.pPwacc rd rs1 rs2 n) s = .next t ∧ ∀ k, coeffs t rd k < Q ∧
      coeffs t rd k * 2 ^ 32 % Q =
        (∑ j ∈ Finset.range n.val,
          coeffs s (Fin.ofNat 32 (rs1.val + j)) k * coeffs s (Fin.ofNat 32 (rs2.val + j)) k) % Q

/-- P.POLYMUL is the composition of the other commands (R96): with three further registers as scratch, the five commands
leave in P[x] what P.POLYMUL leaves in P[rd]; P.POLYMUL writes nothing but P[rd]. -/
def Obligations.PPolymulComposes : Prop :=
  ∀ rd rs1 rs2 x y s, x ≠ rs2 → x ≠ y →
    ∃ t u, exec (.pPolymul rd rs1 rs2) s = .next t ∧ PolyFrame [rd] [] s t ∧
      execAll [.pNtt x rs1, .pNtt y rs2, .pPwmul x x y, .pInvntt x x, .pFreeze x x] s = .next u ∧
      ∀ k, t.readCoeff rd k = u.readCoeff x k ∧ coeffs t rd k < Q

/-- P.POLYMUL is the product in Z_Q[X]/(X^256 + 1) when every input coefficient is at most 55633166 (R97 item 4). -/
def Obligations.PPolymulIsRingProduct : Prop :=
  ∀ rd rs1 rs2 s, (∀ k, coeffs s rs1 k ≤ 55633166) → (∀ k, coeffs s rs2 k ≤ 55633166) →
    ∃ t, exec (.pPolymul rd rs1 rs2) s = .next t ∧
      ∀ k, (coeffs t rd k : Int) = negacyclic (coeffs s rs1) (coeffs s rs2) k % Q

/-! ### Housekeeping commands -/

/-- NOP (R98): completion only, no register read or written. -/
def Obligations.NopOnlyCompletes : Prop :=
  ∀ s, ∃ t, exec .nop s = .next t ∧ ScalarFrame [] s t ∧ t.unwrittenUse = s.unwrittenUse

/-- P.ZERO and P.COPY (R99, R100). -/
def Obligations.PZeroAndPCopyResult : Prop :=
  (∀ rd s, ∃ t, exec (.pZero rd) s = .next t ∧ PolyFrame [rd] [] s t ∧ ∀ k, t.coeff rd k = .written 0) ∧
  (∀ rd rs1 s, ∃ t, exec (.pCopy rd rs1) s = .next t ∧ PolyFrame [rd] [] s t ∧
    ∀ k, t.readCoeff rd k = s.readCoeff rs1 k)

/-! ### All commands -/

/-- Every command completes and changes nothing but S and P outside R27's effects (R27, R17: no arithmetic flag). -/
def Obligations.EveryCommandCompletes : Prop :=
  (∀ s v i, s.engine = .busy v → decode v = .ok i → ∃ t, engineStep s = .next t ∧ exec i s = .next t ∧ CompletedFrom s t) ∧
  (∀ s, s.engine = .idle → engineStep s = .next s)

/-- The model's treatment of unwritten coefficients (assumption log entry 1; R16 recommends it): a command that consumes
one records a fault and runs on; no other command does. -/
def Obligations.UnwrittenConsumptionRecorded : Prop :=
  ∀ i s, ∃ t, exec i s = .next t ∧
    (t.unwrittenUse = true ↔
      s.unwrittenUse = true ∨ ∃ r ∈ polySources i, ∃ k, (s.coeff r k).isUnwritten = true)

/-! ### Steps -/

/-- A step runs the decoded command: with a command in CLATCH and the engine to move, step is exec of that command; the
state in which a word is placed is such a state. The event list is the model's choice (assumption log entry 2, DESIGN
CHOICE), and so is placing a word with `withFetchWord` (entry 3, DEDUCED: DQA fetches nothing). -/
def Obligations.StepRunsLatchedCommand : Prop :=
  ∀ s v i, decode v = .ok i →
    (s.engine = .busy v → s.events = [] → step s = exec i s) ∧
    (s.engine = .busy v → ∀ rest, s.events = .engineTurn :: rest → step s = exec i { s with events := rest }) ∧
    (step (s.withFetchWord 32 v.toNat) = exec i { s with engine := .busy v })

/-- The invariant holds right after reset. -/
def Obligations.InvariantAtReset : Prop := State.reset.Inv

/-- Every step keeps the invariant: the error fields agree, the latched word is one R26 accepts, and while rst_n is low
every register has its value of R118, the engine idle among them. -/
def Obligations.InvariantKeptByStep : Prop := ∀ s t : State, s.Inv → step s = .next t → t.Inv

/-- From a state of the invariant no step stops (R27, R101). -/
def Obligations.InvariantStepGoesOn : Prop := ∀ s : State, s.Inv → ∃ t, step s = .next t ∧ t.Inv

/-- CMDCOUNT (R22): without a reset, a step adds one exactly when the engine completes a command, and else leaves it; a
refused command does not count. -/
def Obligations.CmdcountCountsCompletions : Prop :=
  ∀ s t : State, step s = .next t → ¬ ResetsNext s →
    (EngineCompletes s → t.cmdcount = s.cmdcount + 1 ∧ t.done = true ∧ t.engine = .idle) ∧
    (¬ EngineCompletes s → t.cmdcount = s.cmdcount)

/-- Only a host access records an error (R101, R17): a step that raises ERR or EOVF takes a host access, and no command
does. -/
def Obligations.OnlyHostAccessesRaiseErrors : Prop :=
  ∀ s t : State, step s = .next t → (s.err = false ∧ t.err = true) ∨ (s.eovf = false ∧ t.eovf = true) →
    ∃ e rest, s.events = e :: rest ∧ ((∃ a size, e = .read a size) ∨ ∃ a size v, e = .write a size v)

/-! ### The host port -/

/-- Acceptance of a word written to CMD (R26). -/
def Obligations.CommandAcceptance : Prop :=
  ∀ s v, (s.busy = true → hostWrite 0x0004 4 v s = raiseError .cmdBusy v s) ∧
    (s.busy = false → ∀ e, decode v = .error e → hostWrite 0x0004 4 v s = raiseError e v s) ∧
    (s.busy = false → ∀ i, decode v = .ok i → hostWrite 0x0004 4 v s = { s with engine := .busy v })

/-- Recording an error (R103), with the numbers of the six codes (R102). -/
def Obligations.ErrorRecording : Prop :=
  (∀ e info s,
    (s.err = false → raiseError e info s = { s with err := true, errcode := ErrCode.number e, errinfo := info }) ∧
    (s.err = true → raiseError e info s = { s with eovf := true })) ∧
  ErrCode.number .illegalOpcode = 1 ∧ ErrCode.number .reservedField = 2 ∧ ErrCode.number .badOperand = 3 ∧
  ErrCode.number .cmdBusy = 4 ∧ ErrCode.number .accessBusy = 5 ∧ ErrCode.number .misaligned = 6

/-- An access of a size other than 4 or at an unaligned address raises MISALIGNED at any address, busy or idle; a refused
write changes nothing else and a refused read returns 0 (R35, R36). -/
def Obligations.MisalignedAccessRefused : Prop :=
  ∀ (a : Addr) size v s, size ≠ 4 ∨ a.toNat % 4 ≠ 0 →
    hostWrite a size v s = raiseError .misaligned (a.setWidth 32) s ∧
    hostRead a size s = { raiseError .misaligned (a.setWidth 32) s with lastRead := some 0 }

/-- Busy refusal (R41): while a command runs an aligned access to the S or P range is refused, and a misaligned access
raises MISALIGNED instead. An aligned access to any other address passes the port's checks (what it then does is the
register statements below, all of them about busy states too): the read records no error and changes only the word
returned, and the write records no error, except at CMD, whose write is refused with CMD_BUSY (R26). -/
def Obligations.BusyAccessRefused : Prop :=
  ∀ (a : Addr) v s, s.busy = true →
    let inFiles : Prop := (0x0100 ≤ a.toNat ∧ a.toNat ≤ 0x017F) ∨ 0x8000 ≤ a.toNat
    (a.toNat % 4 = 0 → inFiles →
      hostWrite a 4 v s = raiseError .accessBusy (a.setWidth 32) s ∧
      hostRead a 4 s = { raiseError .accessBusy (a.setWidth 32) s with lastRead := some 0 }) ∧
    (a.toNat % 4 ≠ 0 →
      hostWrite a 4 v s = raiseError .misaligned (a.setWidth 32) s ∧
      hostRead a 4 s = { raiseError .misaligned (a.setWidth 32) s with lastRead := some 0 }) ∧
    (a.toNat % 4 = 0 → ¬ inFiles →
      accessError a 4 s = none ∧ (∃ w, hostRead a 4 s = { s with lastRead := some w }) ∧
      (a = 0x0004 → hostWrite a 4 v s = raiseError .cmdBusy v s) ∧
      (a ≠ 0x0004 → ((hostWrite a 4 v s).err = true → s.err = true) ∧ ((hostWrite a 4 v s).eovf = true → s.eovf = true)))

/-- While a command runs no host access, but for the soft reset, changes its operands or CLATCH (R41, R26). -/
def Obligations.BusyHostCannotDisturb : Prop :=
  ∀ (a : Addr) size v s, s.busy = true →
    (¬ IsSoftReset a size v → (hostWrite a size v s).sregs = s.sregs ∧ (hostWrite a size v s).pregs = s.pregs ∧
      (hostWrite a size v s).engine = s.engine) ∧
    (hostRead a size s).sregs = s.sregs ∧ (hostRead a size s).pregs = s.pregs ∧ (hostRead a size s).engine = s.engine

/-- No read has a side effect (R40): a read without an error changes nothing but the word returned (and the model's fault
record), and reading again returns the same word. -/
def Obligations.ReadsHaveNoSideEffect : Prop :=
  ∀ (a : Addr) s, accessError a 4 s = none →
    (∃ w u, hostRead a 4 s = { s with lastRead := w, unwrittenUse := u }) ∧
    (hostRead a 4 (hostRead a 4 s)).lastRead = (hostRead a 4 s).lastRead

/-- Scalar registers at the port while idle (R32): a read returns S[i]; a write sets S[i] and nothing else. -/
def Obligations.ScalarRegisterPort : Prop :=
  ∀ (i : SReg) v s, s.busy = false →
    let a : Addr := BitVec.ofNat 16 (0x0100 + 4 * i.val)
    hostRead a 4 s = { s with lastRead := some (s.readS i) } ∧
    (hostWrite a 4 v s).readS i = v ∧ (∀ j, j ≠ i → (hostWrite a 4 v s).readS j = s.readS j) ∧
    hostWrite a 4 v s = { s with sregs := (hostWrite a 4 v s).sregs }

/-- Coefficients at the port while idle (R33): a read returns P[r][k]; a write sets P[r][k] and leaves every other
coefficient, and the rest of the state, unchanged. -/
def Obligations.CoefficientPort : Prop :=
  ∀ (r : PReg) (k : Fin 256) v s, s.busy = false →
    let a : Addr := BitVec.ofNat 16 (0x8000 + 4 * (256 * r.val + k.val))
    (hostRead a 4 s).lastRead = some (s.readCoeff r k) ∧
    (hostWrite a 4 v s).coeff r k = .written v ∧
    (∀ q l, (q, l) ≠ (r, k) → (hostWrite a 4 v s).coeff q l = s.coeff q l) ∧
    hostWrite a 4 v s = { s with pregs := (hostWrite a 4 v s).pregs }

/-- The ROMs at the port (R34) hold the twiddles of R86's and R87's formulas; the word after the last reads 0; writes are
ignored; all this while busy too. -/
def Obligations.TwiddleRomPort : Prop :=
  ∀ s, (∀ k < 256, hostRead (BitVec.ofNat 16 (0x0400 + 4 * k)) 4 s = { s with lastRead := some (BitVec.ofNat 32 (zeta k)) }) ∧
    (∀ m < 255, hostRead (BitVec.ofNat 16 (0x0800 + 4 * m)) 4 s =
      { s with lastRead := some (BitVec.ofNat 32 (zetaInv m)) }) ∧
    (∀ l < 8, ∀ b < 128 / 2 ^ l, zetaInv (256 - 256 / 2 ^ l + b) * ROOT ^ brv8 (128 / 2 ^ l + b) % Q = MONT) ∧
    hostRead 0x0BFC 4 s = { s with lastRead := some 0 } ∧
    (∀ (a : Addr) v, a.toNat % 4 = 0 → 0x0400 ≤ a.toNat → a.toNat ≤ 0x0BFF → hostWrite a 4 v s = s)

/-- An aligned address that R31 does not name reads 0 and ignores writes, without an error (R38). -/
def Obligations.UnmappedAddressesInert : Prop :=
  ∀ (a : Addr) v s, a.toNat % 4 = 0 →
    (0x001C ≤ a.toNat ∧ a.toNat < 0x0100) ∨ (0x0180 ≤ a.toNat ∧ a.toNat < 0x0400) ∨
      (0x0C00 ≤ a.toNat ∧ a.toNat < 0x8000) →
    hostRead a 4 s = { s with lastRead := some 0 } ∧ hostWrite a 4 v s = s

/-- The control registers at the port, busy or idle (R19 to R23, R39): what each reads as, and that writes to ID, ERRINFO,
CMDCOUNT and HWCFG are ignored. -/
def Obligations.ControlRegisterPort : Prop :=
  ∀ s v, hostRead 0x0000 4 s = { s with lastRead := some 0x44514131 } ∧
    hostRead 0x0004 4 s = { s with lastRead := some 0 } ∧
    hostRead 0x0010 4 s = { s with lastRead := some s.errinfo } ∧
    hostRead 0x0014 4 s = { s with lastRead := some s.cmdcount } ∧
    hostRead 0x0018 4 s = { s with lastRead := some 0x01002020 } ∧
    hostWrite 0x0000 4 v s = s ∧ hostWrite 0x0010 4 v s = s ∧ hostWrite 0x0014 4 v s = s ∧ hostWrite 0x0018 4 v s = s

/-- STATUS reads as R17's fields, with every reserved bit 0. -/
def Obligations.StatusReadsItsFields : Prop :=
  ∀ s, ∃ w, hostRead 0x0008 4 s = { s with lastRead := some w } ∧
    w.getLsbD 0 = s.busy ∧ w.getLsbD 1 = s.done ∧ w.getLsbD 2 = s.err ∧ w.getLsbD 3 = s.eovf ∧
    w.extractLsb' 8 4 = s.errcode ∧ w.extractLsb' 4 4 = 0 ∧ w.extractLsb' 12 20 = 0

/-- A write to STATUS (R107): bit 2 clears ERR, EOVF, ERRCODE and ERRINFO, bit 1 clears DONE, both may; 0 bits and every
other bit have no effect. -/
def Obligations.StatusWriteClears : Prop :=
  ∀ s v, hostWrite 0x0008 4 v s =
    { s with
      done := s.done && !v.getLsbD 1
      err := s.err && !v.getLsbD 2
      eovf := s.eovf && !v.getLsbD 2
      errcode := if v.getLsbD 2 then 0 else s.errcode
      errinfo := if v.getLsbD 2 then 0 else s.errinfo }

/-- CTRL and the interrupt output (R18, R29), busy or idle: a write without SRST sets the two enables and a write with it
gives every register its reset value; the read shows the enables; irq is the function of four bits; CTRL and irq are 0
after reset; without a reset, each of the four bits is cleared only by the host's write to its register, and so irq stays
asserted until such a write. -/
def Obligations.CtrlAndInterrupt : Prop :=
  (∀ s v, (v.getLsbD 31 = false →
      hostWrite 0x000C 4 v s = { s with ieDone := v.getLsbD 0, ieErr := v.getLsbD 1 }) ∧
    (v.getLsbD 31 = true → (hostWrite 0x000C 4 v s).HasResetValues) ∧
    (∃ w, hostRead 0x000C 4 s = { s with lastRead := some w } ∧ w.getLsbD 0 = s.ieDone ∧ w.getLsbD 1 = s.ieErr ∧
      w.extractLsb' 2 30 = 0) ∧
    (irq s = true ↔ (s.done = true ∧ s.ieDone = true) ∨ (s.err = true ∧ s.ieErr = true))) ∧
  (hostRead 0x000C 4 State.reset).lastRead = some 0 ∧ irq State.reset = false ∧
  (∀ s t, step s = .next t → ¬ ResetsNext s →
    (s.done = true → t.done = false → HostWritesNext s 0x0008 fun v => v.getLsbD 1 = true) ∧
    (s.err = true → t.err = false → HostWritesNext s 0x0008 fun v => v.getLsbD 2 = true) ∧
    (s.ieDone = true → t.ieDone = false → HostWritesNext s 0x000C fun v => v.getLsbD 0 = false) ∧
    (s.ieErr = true → t.ieErr = false → HostWritesNext s 0x000C fun v => v.getLsbD 1 = false) ∧
    (irq s = true → irq t = false →
      HostWritesNext s 0x0008 (fun v => v.getLsbD 1 = true ∨ v.getLsbD 2 = true) ∨
      HostWritesNext s 0x000C (fun v => v.getLsbD 0 = false ∨ v.getLsbD 1 = false)))

/-! ### Reset -/

/-- The state right after power-on and reset (R118): the register values, and every P coefficient unwritten. -/
def Obligations.ResetStateValues : Prop :=
  State.reset.HasResetValues ∧ ∀ r k, (State.reset.coeff r k).isUnwritten = true

/-- A soft reset (R116, R117): accepted while busy; every register at R118's value; the polynomial destinations of the
command in progress (P[rd], and also P[re] for P.P2R and P.DECOMP) are unwritten, every other coefficient is as it was. -/
def Obligations.SoftResetEffect : Prop :=
  ∀ s v, v.getLsbD 31 = true →
    (hostWrite 0x000C 4 v s).HasResetValues ∧
    (s.engine = .idle → (hostWrite 0x000C 4 v s).pregs = s.pregs) ∧
    (∀ w i, s.engine = .busy w → decode w = .ok i → ∀ r k,
      (r ∈ polyDestinations i → ((hostWrite 0x000C 4 v s).coeff r k).isUnwritten = true) ∧
      (r ∉ polyDestinations i → (hostWrite 0x000C 4 v s).coeff r k = s.coeff r k))

/-- A hardware reset (R115, R116): the effect of the soft reset; while rst_n is low no access takes place; after its
release every register has its value of R118, in every state of the invariant. A power cycle (R114): every P coefficient
is unwritten and the rest has its reset value. That the values appear already when rst_n goes low, and that the release
changes only its level, is the model's choice (assumption log entry 4, DEDUCED); so is the power cycle as one event
(entry 5, DESIGN CHOICE). -/
def Obligations.HardResetAndPowerCycle : Prop :=
  ∀ s rest, (s.events = .assertReset :: rest → ∃ t, step s = .next t ∧ t.HasResetValues ∧ t.inReset = true ∧
      t.pregs = (hostWrite 0x000C 4 0x80000000 s).pregs ∧ t.events = rest) ∧
    (s.inReset = true → ∀ a size v, (s.events = .read a size :: rest ∨ s.events = .write a size v :: rest) →
      step s = .next { s with events := rest }) ∧
    (s.events = .releaseReset :: rest → step s = .next { s with events := rest, inReset := false } ∧
      (s.inReset = true → s.Inv → ∃ t, step s = .next t ∧ t.HasResetValues)) ∧
    (s.events = .powerCycle :: rest → ∃ t, step s = .next t ∧ t.HasResetValues ∧
      ∀ r k, (t.coeff r k).isUnwritten = true)

/-! ### Constants -/

/-- The constants of R5 and R88 as their formulas give them. -/
def Obligations.ConstantsFollowFormulas : Prop :=
  Q = 2 ^ 23 - 2 ^ 13 + 1 ∧ ALPHA = 2 ^ 19 - 2 ^ 9 ∧ QINV * Q % 2 ^ 32 = 2 ^ 32 - 1 ∧ MONT = 4193792 ∧
    ROOT ^ 256 % Q = Q - 1 ∧ Config.F_INV.toNat * 256 % Q = MONT ^ 2 % Q ∧ Config.F_INV.toNat = 41978 ∧
    Config.INV_OFFSET.toNat = 256 * Q
end

