-- ==== Sys2Proof/Laws/Encoding.lean ====
section
/-! SUPPORT. The fields of an assembled word (spec 30_encoding.md R49, R56). -/

namespace Sys2Proof

/-- Two words whose one bits lie on either side of bit `i` are joined by adding them. -/
theorem or_eq_add (i a b : Nat) (h : b < 2 ^ i) : (2 ^ i * a) ||| b = 2 ^ i * a + b :=
  (Nat.two_pow_add_eq_or_of_lt h a).symm

/-- An assembled word as a number: the fields do not overlap. -/
theorem packWord_toNat (opc : Nat) (h : opc < 64) (rd rs1 rs2 re : Fin 32) :
    (packWord opc rd rs1 rs2 re).toNat =
      opc * 2 ^ 26 + rd.val * 2 ^ 21 + rs1.val * 2 ^ 16 + rs2.val * 2 ^ 11 + re.val * 2 ^ 6 := by
  have hd := rd.isLt
  have h1 := rs1.isLt
  have h2 := rs2.isLt
  have he := re.isLt
  have e : ∀ x k : Nat, x < 64 → k ≤ 26 →
      (BitVec.ofNat 32 x <<< k).toNat = 2 ^ k * x := by
    intro x k hx hk
    have hp : 2 ^ k ≤ 2 ^ 26 := Nat.pow_le_pow_right (by omega) hk
    have hm : 2 ^ k * x < 2 ^ 32 := by nlinarith
    rw [BitVec.toNat_shiftLeft, BitVec.toNat_ofNat, Nat.mod_eq_of_lt (show x < 2 ^ 32 by omega), Nat.shiftLeft_eq,
      Nat.mul_comm, Nat.mod_eq_of_lt hm]
  simp only [packWord, BitVec.toNat_or]
  rw [e _ _ h (by omega), e _ _ (by omega) (by omega), e _ _ (by omega) (by omega), e _ _ (by omega) (by omega),
    e _ _ (by omega) (by omega)]
  rw [or_eq_add 26 opc _ (by omega),
    show 2 ^ 26 * opc + 2 ^ 21 * rd.val = 2 ^ 21 * (2 ^ 5 * opc + rd.val) by ring,
    or_eq_add 21 _ _ (by omega),
    show 2 ^ 21 * (2 ^ 5 * opc + rd.val) + 2 ^ 16 * rs1.val = 2 ^ 16 * (2 ^ 5 * (2 ^ 5 * opc + rd.val) + rs1.val) by ring,
    or_eq_add 16 _ _ (by omega),
    show 2 ^ 16 * (2 ^ 5 * (2 ^ 5 * opc + rd.val) + rs1.val) + 2 ^ 11 * rs2.val =
      2 ^ 11 * (2 ^ 5 * (2 ^ 5 * (2 ^ 5 * opc + rd.val) + rs1.val) + rs2.val) by ring,
    or_eq_add 11 _ _ (by omega)]
  ring

theorem regField_val (v : Word) (lo : Nat) : (regField v lo).val = v.toNat / 2 ^ lo % 32 := by
  simp only [regField, BitVec.extractLsb', BitVec.ofNat, Nat.shiftRight_eq_div_pow]
  rfl

theorem opcField_eq (v : Word) : opcField v = v.toNat / 2 ^ 26 := by
  have := v.isLt
  simp only [opcField, BitVec.extractLsb'_toNat, Nat.shiftRight_eq_div_pow]
  omega

/-- The fields of an assembled word are the fields it was assembled from (R49, R56). -/
theorem fieldsOf_packWord (opc : Nat) (h : opc < 64) (rd rs1 rs2 re : Fin 32) :
    fieldsOf (packWord opc rd rs1 rs2 re) = ⟨rd, rs1, rs2, re⟩ := by
  have hv := packWord_toNat opc h rd rs1 rs2 re
  have hd := rd.isLt
  have h1 := rs1.isLt
  have h2 := rs2.isLt
  have he := re.isLt
  simp only [fieldsOf, Fields.mk.injEq, Fin.ext_iff, regField_val, hv]
  omega

/-- The opcode of an assembled word (R49, R56). -/
theorem opcField_packWord (opc : Nat) (h : opc < 64) (rd rs1 rs2 re : Fin 32) :
    opcField (packWord opc rd rs1 rs2 re) = opc := by
  have hd := rd.isLt
  have h1 := rs1.isLt
  have h2 := rs2.isLt
  have he := re.isLt
  rw [opcField_eq, packWord_toNat opc h]
  omega

/-- A word whose reserved bits 5:0 are 0 is the assembly of its own fields (R49, R56). -/
theorem packWord_fieldsOf (v : Word) (hz : v.toNat % 64 = 0) :
    packWord (opcField v) (fieldsOf v).rd (fieldsOf v).rs1 (fieldsOf v).rs2 (fieldsOf v).re = v := by
  have hv := v.isLt
  apply BitVec.eq_of_toNat_eq
  rw [packWord_toNat _ (by rw [opcField_eq]; omega)]
  simp only [fieldsOf, regField_val, opcField_eq]
  omega

/-- The row of R51 that an opcode selects. -/
def rowOfOpc (n : Nat) : Option OpRow := opcodeMap.find? fun r => opcField r.pat == n

theorem rowOf_packWord (opc : Nat) (h : opc < 64) (rd rs1 rs2 re : Fin 32) :
    rowOf (packWord opc rd rs1 rs2 re) = rowOfOpc opc := by
  simp only [rowOf, rowOfOpc, opcField_packWord opc h]

/-- A mask that covers the opcode and none of the fields in use leaves the opcode's bits. -/
theorem packWord_and_mask {opc : Nat} {rd rs1 rs2 re : Fin 32} {mask pat : Word}
    (ho : (BitVec.ofNat 32 opc <<< 26) &&& mask = pat) (hd : (BitVec.ofNat 32 rd.val <<< 21) &&& mask = 0)
    (h1 : (BitVec.ofNat 32 rs1.val <<< 16) &&& mask = 0) (h2 : (BitVec.ofNat 32 rs2.val <<< 11) &&& mask = 0)
    (he : (BitVec.ofNat 32 re.val <<< 6) &&& mask = 0) : packWord opc rd rs1 rs2 re &&& mask = pat := by
  have dist : ∀ x y : Word, (x ||| y) &&& mask = (x &&& mask) ||| (y &&& mask) := by
    intro x y; ext i; simp [Bool.and_or_distrib_right]
  simp only [packWord, dist, ho, hd, h1, h2, he]
  simp

end Sys2Proof
end

