-- ==== Sys2Proof/Laws/PerInstr.lean ====
section
/-! SUPPORT. The family SelectsRow, per instruction: the word of a command selects its own row of the opcode map of
spec 30_encoding.md R51, has 0 in every bit that row reserves (R53), and its fields give the command back. -/

namespace Sys2Proof.Laws.SelectsRow

/-- The encoded word matches one row, under that row's mask, and the row builds the same command from its fields. -/
def Statement (i : Instr) : Prop :=
  ∃ row, rowOf (encode i) = some row ∧ encode i &&& row.mask = row.pat ∧ row.build (fieldsOf (encode i)) = i

/-- A five-bit value placed at each field of format C is 0 under the masks that leave the field free. -/
theorem field_free (x : Fin 32) :
    (BitVec.ofNat 32 x.val <<< 21) &&& 0xFC00FFFF#32 = 0 ∧ (BitVec.ofNat 32 x.val <<< 16) &&& 0xFC00FFFF#32 = 0 ∧
    (BitVec.ofNat 32 x.val <<< 21) &&& 0xFC0007FF#32 = 0 ∧ (BitVec.ofNat 32 x.val <<< 16) &&& 0xFC0007FF#32 = 0 ∧
    (BitVec.ofNat 32 x.val <<< 11) &&& 0xFC0007FF#32 = 0 ∧
    (BitVec.ofNat 32 x.val <<< 21) &&& 0xFC00F83F#32 = 0 ∧ (BitVec.ofNat 32 x.val <<< 16) &&& 0xFC00F83F#32 = 0 ∧
    (BitVec.ofNat 32 x.val <<< 6) &&& 0xFC00F83F#32 = 0 ∧
    (BitVec.ofNat 32 x.val <<< 21) &&& 0xFC00003F#32 = 0 ∧ (BitVec.ofNat 32 x.val <<< 16) &&& 0xFC00003F#32 = 0 ∧
    (BitVec.ofNat 32 x.val <<< 11) &&& 0xFC00003F#32 = 0 ∧ (BitVec.ofNat 32 x.val <<< 6) &&& 0xFC00003F#32 = 0 ∧
    (BitVec.ofNat 32 x.val <<< 21) &&& 0xFC1FFFFF#32 = 0 := by
  revert x; decide

/-- A command assembled from an opcode and fields selects the row `row` when that row has the opcode, its mask leaves
the fields in use free, and it builds the command from them. -/
theorem of_packWord {i : Instr} {opc : Nat} {rd rs1 rs2 re : Fin 32} (row : OpRow) (he : encode i = packWord opc rd rs1 rs2 re)
    (hr : rowOfOpc opc = some row) (h : opc < 64) (ho : (BitVec.ofNat 32 opc <<< 26) &&& row.mask = row.pat)
    (hd : (BitVec.ofNat 32 rd.val <<< 21) &&& row.mask = 0) (h1 : (BitVec.ofNat 32 rs1.val <<< 16) &&& row.mask = 0)
    (h2 : (BitVec.ofNat 32 rs2.val <<< 11) &&& row.mask = 0) (h3 : (BitVec.ofNat 32 re.val <<< 6) &&& row.mask = 0)
    (hb : row.build ⟨rd, rs1, rs2, re⟩ = i) : Statement i :=
  ⟨row, by rw [he, rowOf_packWord opc h, hr], by rw [he]; exact packWord_and_mask ho hd h1 h2 h3,
    by rw [he, fieldsOf_packWord opc h, hb]⟩

theorem nop : Statement (.nop) :=
  of_packWord ⟨0x00000000, 0xFFFFFFFF, fun _ => .nop⟩ rfl rfl (by decide) (by decide)
    (by decide) (by decide) (by decide) (by decide) rfl

theorem sRed32 (rd rs1 : Fin 32) : Statement (.sRed32 rd rs1) :=
  of_packWord ⟨0x04000000, 0xFC00FFFF, fun f => .sRed32 f.rd f.rs1⟩ rfl rfl (by decide) (by decide)
    (by have := field_free rd; simp_all) (by have := field_free rs1; simp_all) (by decide) (by decide) rfl

theorem sCsubq (rd rs1 : Fin 32) : Statement (.sCsubq rd rs1) :=
  of_packWord ⟨0x08000000, 0xFC00FFFF, fun f => .sCsubq f.rd f.rs1⟩ rfl rfl (by decide) (by decide)
    (by have := field_free rd; simp_all) (by have := field_free rs1; simp_all) (by decide) (by decide) rfl

theorem sFreeze (rd rs1 : Fin 32) : Statement (.sFreeze rd rs1) :=
  of_packWord ⟨0x0C000000, 0xFC00FFFF, fun f => .sFreeze f.rd f.rs1⟩ rfl rfl (by decide) (by decide)
    (by have := field_free rd; simp_all) (by have := field_free rs1; simp_all) (by decide) (by decide) rfl

theorem sMont (rd rs1 rs2 : Fin 32) : Statement (.sMont rd rs1 rs2) :=
  of_packWord ⟨0x10000000, 0xFC0007FF, fun f => .sMont f.rd f.rs1 f.rs2⟩ rfl rfl (by decide) (by decide)
    (by have := field_free rd; simp_all) (by have := field_free rs1; simp_all) (by have := field_free rs2; simp_all) (by decide) rfl

theorem sMontmul (rd rs1 rs2 : Fin 32) : Statement (.sMontmul rd rs1 rs2) :=
  of_packWord ⟨0x14000000, 0xFC0007FF, fun f => .sMontmul f.rd f.rs1 f.rs2⟩ rfl rfl (by decide) (by decide)
    (by have := field_free rd; simp_all) (by have := field_free rs1; simp_all) (by have := field_free rs2; simp_all) (by decide) rfl

theorem sP2r (rd rs1 re : Fin 32) : Statement (.sP2r rd rs1 re) :=
  of_packWord ⟨0x18000000, 0xFC00F83F, fun f => .sP2r f.rd f.rs1 f.re⟩ rfl rfl (by decide) (by decide)
    (by have := field_free rd; simp_all) (by have := field_free rs1; simp_all) (by decide) (by have := field_free re; simp_all) rfl

theorem sDecomp (rd rs1 re : Fin 32) : Statement (.sDecomp rd rs1 re) :=
  of_packWord ⟨0x1C000000, 0xFC00F83F, fun f => .sDecomp f.rd f.rs1 f.re⟩ rfl rfl (by decide) (by decide)
    (by have := field_free rd; simp_all) (by have := field_free rs1; simp_all) (by decide) (by have := field_free re; simp_all) rfl

theorem sMkhint (rd rs1 rs2 : Fin 32) : Statement (.sMkhint rd rs1 rs2) :=
  of_packWord ⟨0x20000000, 0xFC0007FF, fun f => .sMkhint f.rd f.rs1 f.rs2⟩ rfl rfl (by decide) (by decide)
    (by have := field_free rd; simp_all) (by have := field_free rs1; simp_all) (by have := field_free rs2; simp_all) (by decide) rfl

theorem sUsehint (rd rs1 rs2 : Fin 32) : Statement (.sUsehint rd rs1 rs2) :=
  of_packWord ⟨0x24000000, 0xFC0007FF, fun f => .sUsehint f.rd f.rs1 f.rs2⟩ rfl rfl (by decide) (by decide)
    (by have := field_free rd; simp_all) (by have := field_free rs1; simp_all) (by have := field_free rs2; simp_all) (by decide) rfl

theorem pRed32 (rd rs1 : Fin 32) : Statement (.pRed32 rd rs1) :=
  of_packWord ⟨0x40000000, 0xFC00FFFF, fun f => .pRed32 f.rd f.rs1⟩ rfl rfl (by decide) (by decide)
    (by have := field_free rd; simp_all) (by have := field_free rs1; simp_all) (by decide) (by decide) rfl

theorem pCsubq (rd rs1 : Fin 32) : Statement (.pCsubq rd rs1) :=
  of_packWord ⟨0x44000000, 0xFC00FFFF, fun f => .pCsubq f.rd f.rs1⟩ rfl rfl (by decide) (by decide)
    (by have := field_free rd; simp_all) (by have := field_free rs1; simp_all) (by decide) (by decide) rfl

theorem pFreeze (rd rs1 : Fin 32) : Statement (.pFreeze rd rs1) :=
  of_packWord ⟨0x48000000, 0xFC00FFFF, fun f => .pFreeze f.rd f.rs1⟩ rfl rfl (by decide) (by decide)
    (by have := field_free rd; simp_all) (by have := field_free rs1; simp_all) (by decide) (by decide) rfl

theorem pP2r (rd rs1 re : Fin 32) : Statement (.pP2r rd rs1 re) :=
  of_packWord ⟨0x4C000000, 0xFC00F83F, fun f => .pP2r f.rd f.rs1 f.re⟩ rfl rfl (by decide) (by decide)
    (by have := field_free rd; simp_all) (by have := field_free rs1; simp_all) (by decide) (by have := field_free re; simp_all) rfl

theorem pDecomp (rd rs1 re : Fin 32) : Statement (.pDecomp rd rs1 re) :=
  of_packWord ⟨0x50000000, 0xFC00F83F, fun f => .pDecomp f.rd f.rs1 f.re⟩ rfl rfl (by decide) (by decide)
    (by have := field_free rd; simp_all) (by have := field_free rs1; simp_all) (by decide) (by have := field_free re; simp_all) rfl

theorem pMkhint (rd rs1 rs2 re : Fin 32) : Statement (.pMkhint rd rs1 rs2 re) :=
  of_packWord ⟨0x54000000, 0xFC00003F, fun f => .pMkhint f.rd f.rs1 f.rs2 f.re⟩ rfl rfl (by decide) (by decide)
    (by have := field_free rd; simp_all) (by have := field_free rs1; simp_all) (by have := field_free rs2; simp_all) (by have := field_free re; simp_all) rfl

theorem pUsehint (rd rs1 rs2 : Fin 32) : Statement (.pUsehint rd rs1 rs2) :=
  of_packWord ⟨0x58000000, 0xFC0007FF, fun f => .pUsehint f.rd f.rs1 f.rs2⟩ rfl rfl (by decide) (by decide)
    (by have := field_free rd; simp_all) (by have := field_free rs1; simp_all) (by have := field_free rs2; simp_all) (by decide) rfl

theorem pNtt (rd rs1 : Fin 32) : Statement (.pNtt rd rs1) :=
  of_packWord ⟨0x60000000, 0xFC00FFFF, fun f => .pNtt f.rd f.rs1⟩ rfl rfl (by decide) (by decide)
    (by have := field_free rd; simp_all) (by have := field_free rs1; simp_all) (by decide) (by decide) rfl

theorem pInvntt (rd rs1 : Fin 32) : Statement (.pInvntt rd rs1) :=
  of_packWord ⟨0x64000000, 0xFC00FFFF, fun f => .pInvntt f.rd f.rs1⟩ rfl rfl (by decide) (by decide)
    (by have := field_free rd; simp_all) (by have := field_free rs1; simp_all) (by decide) (by decide) rfl

theorem pPwmul (rd rs1 rs2 : Fin 32) : Statement (.pPwmul rd rs1 rs2) :=
  of_packWord ⟨0x68000000, 0xFC0007FF, fun f => .pPwmul f.rd f.rs1 f.rs2⟩ rfl rfl (by decide) (by decide)
    (by have := field_free rd; simp_all) (by have := field_free rs1; simp_all) (by have := field_free rs2; simp_all) (by decide) rfl

theorem pPwacc (rd rs1 rs2 n : Fin 32) : Statement (.pPwacc rd rs1 rs2 n) :=
  of_packWord ⟨0x6C000000, 0xFC00003F, fun f => .pPwacc f.rd f.rs1 f.rs2 f.re⟩ rfl rfl (by decide) (by decide)
    (by have := field_free rd; simp_all) (by have := field_free rs1; simp_all) (by have := field_free rs2; simp_all) (by have := field_free n; simp_all) rfl

theorem pPolymul (rd rs1 rs2 : Fin 32) : Statement (.pPolymul rd rs1 rs2) :=
  of_packWord ⟨0x70000000, 0xFC0007FF, fun f => .pPolymul f.rd f.rs1 f.rs2⟩ rfl rfl (by decide) (by decide)
    (by have := field_free rd; simp_all) (by have := field_free rs1; simp_all) (by have := field_free rs2; simp_all) (by decide) rfl

theorem pZero (rd : Fin 32) : Statement (.pZero rd) :=
  of_packWord ⟨0x78000000, 0xFC1FFFFF, fun f => .pZero f.rd⟩ rfl rfl (by decide) (by decide)
    (by have := field_free rd; simp_all) (by decide) (by decide) (by decide) rfl

theorem pCopy (rd rs1 : Fin 32) : Statement (.pCopy rd rs1) :=
  of_packWord ⟨0x7C000000, 0xFC00FFFF, fun f => .pCopy f.rd f.rs1⟩ rfl rfl (by decide) (by decide)
    (by have := field_free rd; simp_all) (by have := field_free rs1; simp_all) (by decide) (by decide) rfl

/-- Every command selects its own row. -/
theorem all (i : Instr) : Statement i := by
  cases i with
  | nop => exact nop
  | sRed32 a b => exact sRed32 a b
  | sCsubq a b => exact sCsubq a b
  | sFreeze a b => exact sFreeze a b
  | sMont a b c => exact sMont a b c
  | sMontmul a b c => exact sMontmul a b c
  | sP2r a b c => exact sP2r a b c
  | sDecomp a b c => exact sDecomp a b c
  | sMkhint a b c => exact sMkhint a b c
  | sUsehint a b c => exact sUsehint a b c
  | pRed32 a b => exact pRed32 a b
  | pCsubq a b => exact pCsubq a b
  | pFreeze a b => exact pFreeze a b
  | pP2r a b c => exact pP2r a b c
  | pDecomp a b c => exact pDecomp a b c
  | pMkhint a b c d => exact pMkhint a b c d
  | pUsehint a b c => exact pUsehint a b c
  | pNtt a b => exact pNtt a b
  | pInvntt a b => exact pInvntt a b
  | pPwmul a b c => exact pPwmul a b c
  | pPwacc a b c d => exact pPwacc a b c d
  | pPolymul a b c => exact pPolymul a b c
  | pZero a => exact pZero a
  | pCopy a b => exact pCopy a b

end Sys2Proof.Laws.SelectsRow
end

