-- ==== Sys2Proof/Laws/State.lean ====
section
/-! SUPPORT. One lemma per field of State per update: what each named operation of Machine/Ops.lean leaves alone, and what
it sets a field to where that is a constant. -/

namespace Sys2Proof.Machine

variable (s : State)

@[simp] theorem writeS_pregs (i : SReg) (v : Word) : (s.writeS i v).pregs = s.pregs := rfl
@[simp] theorem writeS_engine (i : SReg) (v : Word) : (s.writeS i v).engine = s.engine := rfl
@[simp] theorem writeS_done (i : SReg) (v : Word) : (s.writeS i v).done = s.done := rfl
@[simp] theorem writeS_err (i : SReg) (v : Word) : (s.writeS i v).err = s.err := rfl
@[simp] theorem writeS_eovf (i : SReg) (v : Word) : (s.writeS i v).eovf = s.eovf := rfl
@[simp] theorem writeS_errcode (i : SReg) (v : Word) : (s.writeS i v).errcode = s.errcode := rfl
@[simp] theorem writeS_ieDone (i : SReg) (v : Word) : (s.writeS i v).ieDone = s.ieDone := rfl
@[simp] theorem writeS_ieErr (i : SReg) (v : Word) : (s.writeS i v).ieErr = s.ieErr := rfl
@[simp] theorem writeS_errinfo (i : SReg) (v : Word) : (s.writeS i v).errinfo = s.errinfo := rfl
@[simp] theorem writeS_cmdcount (i : SReg) (v : Word) : (s.writeS i v).cmdcount = s.cmdcount := rfl
@[simp] theorem writeS_inReset (i : SReg) (v : Word) : (s.writeS i v).inReset = s.inReset := rfl
@[simp] theorem writeS_events (i : SReg) (v : Word) : (s.writeS i v).events = s.events := rfl
@[simp] theorem writeS_lastRead (i : SReg) (v : Word) : (s.writeS i v).lastRead = s.lastRead := rfl
@[simp] theorem writeS_unspecCount (i : SReg) (v : Word) : (s.writeS i v).unspecCount = s.unspecCount := rfl
@[simp] theorem writeS_unwrittenUse (i : SReg) (v : Word) : (s.writeS i v).unwrittenUse = s.unwrittenUse := rfl

@[simp] theorem writeCoeff_sregs (r : PReg) (k : Fin 256) (v : Word) : (s.writeCoeff r k v).sregs = s.sregs := rfl
@[simp] theorem writeCoeff_engine (r : PReg) (k : Fin 256) (v : Word) : (s.writeCoeff r k v).engine = s.engine := rfl
@[simp] theorem writeCoeff_done (r : PReg) (k : Fin 256) (v : Word) : (s.writeCoeff r k v).done = s.done := rfl
@[simp] theorem writeCoeff_err (r : PReg) (k : Fin 256) (v : Word) : (s.writeCoeff r k v).err = s.err := rfl
@[simp] theorem writeCoeff_eovf (r : PReg) (k : Fin 256) (v : Word) : (s.writeCoeff r k v).eovf = s.eovf := rfl
@[simp] theorem writeCoeff_errcode (r : PReg) (k : Fin 256) (v : Word) : (s.writeCoeff r k v).errcode = s.errcode := rfl
@[simp] theorem writeCoeff_ieDone (r : PReg) (k : Fin 256) (v : Word) : (s.writeCoeff r k v).ieDone = s.ieDone := rfl
@[simp] theorem writeCoeff_ieErr (r : PReg) (k : Fin 256) (v : Word) : (s.writeCoeff r k v).ieErr = s.ieErr := rfl
@[simp] theorem writeCoeff_errinfo (r : PReg) (k : Fin 256) (v : Word) : (s.writeCoeff r k v).errinfo = s.errinfo := rfl
@[simp] theorem writeCoeff_cmdcount (r : PReg) (k : Fin 256) (v : Word) : (s.writeCoeff r k v).cmdcount = s.cmdcount := rfl
@[simp] theorem writeCoeff_inReset (r : PReg) (k : Fin 256) (v : Word) : (s.writeCoeff r k v).inReset = s.inReset := rfl
@[simp] theorem writeCoeff_events (r : PReg) (k : Fin 256) (v : Word) : (s.writeCoeff r k v).events = s.events := rfl
@[simp] theorem writeCoeff_lastRead (r : PReg) (k : Fin 256) (v : Word) : (s.writeCoeff r k v).lastRead = s.lastRead := rfl
@[simp] theorem writeCoeff_unspecCount (r : PReg) (k : Fin 256) (v : Word) : (s.writeCoeff r k v).unspecCount = s.unspecCount := rfl
@[simp] theorem writeCoeff_unwrittenUse (r : PReg) (k : Fin 256) (v : Word) : (s.writeCoeff r k v).unwrittenUse = s.unwrittenUse := rfl

@[simp] theorem writeP_sregs (r : PReg) (p : Lanes) : (s.writeP r p).sregs = s.sregs := rfl
@[simp] theorem writeP_engine (r : PReg) (p : Lanes) : (s.writeP r p).engine = s.engine := rfl
@[simp] theorem writeP_done (r : PReg) (p : Lanes) : (s.writeP r p).done = s.done := rfl
@[simp] theorem writeP_err (r : PReg) (p : Lanes) : (s.writeP r p).err = s.err := rfl
@[simp] theorem writeP_eovf (r : PReg) (p : Lanes) : (s.writeP r p).eovf = s.eovf := rfl
@[simp] theorem writeP_errcode (r : PReg) (p : Lanes) : (s.writeP r p).errcode = s.errcode := rfl
@[simp] theorem writeP_ieDone (r : PReg) (p : Lanes) : (s.writeP r p).ieDone = s.ieDone := rfl
@[simp] theorem writeP_ieErr (r : PReg) (p : Lanes) : (s.writeP r p).ieErr = s.ieErr := rfl
@[simp] theorem writeP_errinfo (r : PReg) (p : Lanes) : (s.writeP r p).errinfo = s.errinfo := rfl
@[simp] theorem writeP_cmdcount (r : PReg) (p : Lanes) : (s.writeP r p).cmdcount = s.cmdcount := rfl
@[simp] theorem writeP_inReset (r : PReg) (p : Lanes) : (s.writeP r p).inReset = s.inReset := rfl
@[simp] theorem writeP_events (r : PReg) (p : Lanes) : (s.writeP r p).events = s.events := rfl
@[simp] theorem writeP_lastRead (r : PReg) (p : Lanes) : (s.writeP r p).lastRead = s.lastRead := rfl
@[simp] theorem writeP_unspecCount (r : PReg) (p : Lanes) : (s.writeP r p).unspecCount = s.unspecCount := rfl
@[simp] theorem writeP_unwrittenUse (r : PReg) (p : Lanes) : (s.writeP r p).unwrittenUse = s.unwrittenUse := rfl

@[simp] theorem consume_sregs (rs : List PReg) : (s.consume rs).sregs = s.sregs := rfl
@[simp] theorem consume_pregs (rs : List PReg) : (s.consume rs).pregs = s.pregs := rfl
@[simp] theorem consume_engine (rs : List PReg) : (s.consume rs).engine = s.engine := rfl
@[simp] theorem consume_done (rs : List PReg) : (s.consume rs).done = s.done := rfl
@[simp] theorem consume_err (rs : List PReg) : (s.consume rs).err = s.err := rfl
@[simp] theorem consume_eovf (rs : List PReg) : (s.consume rs).eovf = s.eovf := rfl
@[simp] theorem consume_errcode (rs : List PReg) : (s.consume rs).errcode = s.errcode := rfl
@[simp] theorem consume_ieDone (rs : List PReg) : (s.consume rs).ieDone = s.ieDone := rfl
@[simp] theorem consume_ieErr (rs : List PReg) : (s.consume rs).ieErr = s.ieErr := rfl
@[simp] theorem consume_errinfo (rs : List PReg) : (s.consume rs).errinfo = s.errinfo := rfl
@[simp] theorem consume_cmdcount (rs : List PReg) : (s.consume rs).cmdcount = s.cmdcount := rfl
@[simp] theorem consume_inReset (rs : List PReg) : (s.consume rs).inReset = s.inReset := rfl
@[simp] theorem consume_events (rs : List PReg) : (s.consume rs).events = s.events := rfl
@[simp] theorem consume_lastRead (rs : List PReg) : (s.consume rs).lastRead = s.lastRead := rfl
@[simp] theorem consume_unspecCount (rs : List PReg) : (s.consume rs).unspecCount = s.unspecCount := rfl

@[simp] theorem consumeCoeff_sregs (r : PReg) (k : Fin 256) : (s.consumeCoeff r k).sregs = s.sregs := rfl
@[simp] theorem consumeCoeff_pregs (r : PReg) (k : Fin 256) : (s.consumeCoeff r k).pregs = s.pregs := rfl
@[simp] theorem consumeCoeff_engine (r : PReg) (k : Fin 256) : (s.consumeCoeff r k).engine = s.engine := rfl
@[simp] theorem consumeCoeff_done (r : PReg) (k : Fin 256) : (s.consumeCoeff r k).done = s.done := rfl
@[simp] theorem consumeCoeff_err (r : PReg) (k : Fin 256) : (s.consumeCoeff r k).err = s.err := rfl
@[simp] theorem consumeCoeff_eovf (r : PReg) (k : Fin 256) : (s.consumeCoeff r k).eovf = s.eovf := rfl
@[simp] theorem consumeCoeff_errcode (r : PReg) (k : Fin 256) : (s.consumeCoeff r k).errcode = s.errcode := rfl
@[simp] theorem consumeCoeff_ieDone (r : PReg) (k : Fin 256) : (s.consumeCoeff r k).ieDone = s.ieDone := rfl
@[simp] theorem consumeCoeff_ieErr (r : PReg) (k : Fin 256) : (s.consumeCoeff r k).ieErr = s.ieErr := rfl
@[simp] theorem consumeCoeff_errinfo (r : PReg) (k : Fin 256) : (s.consumeCoeff r k).errinfo = s.errinfo := rfl
@[simp] theorem consumeCoeff_cmdcount (r : PReg) (k : Fin 256) : (s.consumeCoeff r k).cmdcount = s.cmdcount := rfl
@[simp] theorem consumeCoeff_inReset (r : PReg) (k : Fin 256) : (s.consumeCoeff r k).inReset = s.inReset := rfl
@[simp] theorem consumeCoeff_events (r : PReg) (k : Fin 256) : (s.consumeCoeff r k).events = s.events := rfl
@[simp] theorem consumeCoeff_lastRead (r : PReg) (k : Fin 256) : (s.consumeCoeff r k).lastRead = s.lastRead := rfl
@[simp] theorem consumeCoeff_unspecCount (r : PReg) (k : Fin 256) : (s.consumeCoeff r k).unspecCount = s.unspecCount := rfl

@[simp] theorem loseP_sregs (rs : List PReg) : (s.loseP rs).sregs = s.sregs := rfl
@[simp] theorem loseP_engine (rs : List PReg) : (s.loseP rs).engine = s.engine := rfl
@[simp] theorem loseP_done (rs : List PReg) : (s.loseP rs).done = s.done := rfl
@[simp] theorem loseP_err (rs : List PReg) : (s.loseP rs).err = s.err := rfl
@[simp] theorem loseP_eovf (rs : List PReg) : (s.loseP rs).eovf = s.eovf := rfl
@[simp] theorem loseP_errcode (rs : List PReg) : (s.loseP rs).errcode = s.errcode := rfl
@[simp] theorem loseP_ieDone (rs : List PReg) : (s.loseP rs).ieDone = s.ieDone := rfl
@[simp] theorem loseP_ieErr (rs : List PReg) : (s.loseP rs).ieErr = s.ieErr := rfl
@[simp] theorem loseP_errinfo (rs : List PReg) : (s.loseP rs).errinfo = s.errinfo := rfl
@[simp] theorem loseP_cmdcount (rs : List PReg) : (s.loseP rs).cmdcount = s.cmdcount := rfl
@[simp] theorem loseP_inReset (rs : List PReg) : (s.loseP rs).inReset = s.inReset := rfl
@[simp] theorem loseP_events (rs : List PReg) : (s.loseP rs).events = s.events := rfl
@[simp] theorem loseP_lastRead (rs : List PReg) : (s.loseP rs).lastRead = s.lastRead := rfl
@[simp] theorem loseP_unwrittenUse (rs : List PReg) : (s.loseP rs).unwrittenUse = s.unwrittenUse := rfl

@[simp] theorem raiseError_sregs (e : ErrCode) (info : Word) : (raiseError e info s).sregs = s.sregs := by unfold raiseError; split <;> rfl
@[simp] theorem raiseError_pregs (e : ErrCode) (info : Word) : (raiseError e info s).pregs = s.pregs := by unfold raiseError; split <;> rfl
@[simp] theorem raiseError_engine (e : ErrCode) (info : Word) : (raiseError e info s).engine = s.engine := by unfold raiseError; split <;> rfl
@[simp] theorem raiseError_done (e : ErrCode) (info : Word) : (raiseError e info s).done = s.done := by unfold raiseError; split <;> rfl
@[simp] theorem raiseError_ieDone (e : ErrCode) (info : Word) : (raiseError e info s).ieDone = s.ieDone := by unfold raiseError; split <;> rfl
@[simp] theorem raiseError_ieErr (e : ErrCode) (info : Word) : (raiseError e info s).ieErr = s.ieErr := by unfold raiseError; split <;> rfl
@[simp] theorem raiseError_cmdcount (e : ErrCode) (info : Word) : (raiseError e info s).cmdcount = s.cmdcount := by unfold raiseError; split <;> rfl
@[simp] theorem raiseError_inReset (e : ErrCode) (info : Word) : (raiseError e info s).inReset = s.inReset := by unfold raiseError; split <;> rfl
@[simp] theorem raiseError_events (e : ErrCode) (info : Word) : (raiseError e info s).events = s.events := by unfold raiseError; split <;> rfl
@[simp] theorem raiseError_lastRead (e : ErrCode) (info : Word) : (raiseError e info s).lastRead = s.lastRead := by unfold raiseError; split <;> rfl
@[simp] theorem raiseError_unspecCount (e : ErrCode) (info : Word) : (raiseError e info s).unspecCount = s.unspecCount := by unfold raiseError; split <;> rfl
@[simp] theorem raiseError_unwrittenUse (e : ErrCode) (info : Word) : (raiseError e info s).unwrittenUse = s.unwrittenUse := by unfold raiseError; split <;> rfl

@[simp] theorem clearError_sregs : (clearError s).sregs = s.sregs := rfl
@[simp] theorem clearError_pregs : (clearError s).pregs = s.pregs := rfl
@[simp] theorem clearError_engine : (clearError s).engine = s.engine := rfl
@[simp] theorem clearError_done : (clearError s).done = s.done := rfl
@[simp] theorem clearError_err : (clearError s).err = false := rfl
@[simp] theorem clearError_eovf : (clearError s).eovf = false := rfl
@[simp] theorem clearError_errcode : (clearError s).errcode = 0 := rfl
@[simp] theorem clearError_ieDone : (clearError s).ieDone = s.ieDone := rfl
@[simp] theorem clearError_ieErr : (clearError s).ieErr = s.ieErr := rfl
@[simp] theorem clearError_errinfo : (clearError s).errinfo = 0 := rfl
@[simp] theorem clearError_cmdcount : (clearError s).cmdcount = s.cmdcount := rfl
@[simp] theorem clearError_inReset : (clearError s).inReset = s.inReset := rfl
@[simp] theorem clearError_events : (clearError s).events = s.events := rfl
@[simp] theorem clearError_lastRead : (clearError s).lastRead = s.lastRead := rfl
@[simp] theorem clearError_unspecCount : (clearError s).unspecCount = s.unspecCount := rfl
@[simp] theorem clearError_unwrittenUse : (clearError s).unwrittenUse = s.unwrittenUse := rfl

@[simp] theorem clearDone_sregs : (clearDone s).sregs = s.sregs := rfl
@[simp] theorem clearDone_pregs : (clearDone s).pregs = s.pregs := rfl
@[simp] theorem clearDone_engine : (clearDone s).engine = s.engine := rfl
@[simp] theorem clearDone_done : (clearDone s).done = false := rfl
@[simp] theorem clearDone_err : (clearDone s).err = s.err := rfl
@[simp] theorem clearDone_eovf : (clearDone s).eovf = s.eovf := rfl
@[simp] theorem clearDone_errcode : (clearDone s).errcode = s.errcode := rfl
@[simp] theorem clearDone_ieDone : (clearDone s).ieDone = s.ieDone := rfl
@[simp] theorem clearDone_ieErr : (clearDone s).ieErr = s.ieErr := rfl
@[simp] theorem clearDone_errinfo : (clearDone s).errinfo = s.errinfo := rfl
@[simp] theorem clearDone_cmdcount : (clearDone s).cmdcount = s.cmdcount := rfl
@[simp] theorem clearDone_inReset : (clearDone s).inReset = s.inReset := rfl
@[simp] theorem clearDone_events : (clearDone s).events = s.events := rfl
@[simp] theorem clearDone_lastRead : (clearDone s).lastRead = s.lastRead := rfl
@[simp] theorem clearDone_unspecCount : (clearDone s).unspecCount = s.unspecCount := rfl
@[simp] theorem clearDone_unwrittenUse : (clearDone s).unwrittenUse = s.unwrittenUse := rfl

@[simp] theorem accept_sregs (v : Word) : (accept v s).sregs = s.sregs := rfl
@[simp] theorem accept_pregs (v : Word) : (accept v s).pregs = s.pregs := rfl
@[simp] theorem accept_engine (v : Word) : (accept v s).engine = .busy v := rfl
@[simp] theorem accept_done (v : Word) : (accept v s).done = s.done := rfl
@[simp] theorem accept_err (v : Word) : (accept v s).err = s.err := rfl
@[simp] theorem accept_eovf (v : Word) : (accept v s).eovf = s.eovf := rfl
@[simp] theorem accept_errcode (v : Word) : (accept v s).errcode = s.errcode := rfl
@[simp] theorem accept_ieDone (v : Word) : (accept v s).ieDone = s.ieDone := rfl
@[simp] theorem accept_ieErr (v : Word) : (accept v s).ieErr = s.ieErr := rfl
@[simp] theorem accept_errinfo (v : Word) : (accept v s).errinfo = s.errinfo := rfl
@[simp] theorem accept_cmdcount (v : Word) : (accept v s).cmdcount = s.cmdcount := rfl
@[simp] theorem accept_inReset (v : Word) : (accept v s).inReset = s.inReset := rfl
@[simp] theorem accept_events (v : Word) : (accept v s).events = s.events := rfl
@[simp] theorem accept_lastRead (v : Word) : (accept v s).lastRead = s.lastRead := rfl
@[simp] theorem accept_unspecCount (v : Word) : (accept v s).unspecCount = s.unspecCount := rfl
@[simp] theorem accept_unwrittenUse (v : Word) : (accept v s).unwrittenUse = s.unwrittenUse := rfl

@[simp] theorem complete_sregs : (complete s).sregs = s.sregs := rfl
@[simp] theorem complete_pregs : (complete s).pregs = s.pregs := rfl
@[simp] theorem complete_engine : (complete s).engine = .idle := rfl
@[simp] theorem complete_done : (complete s).done = true := rfl
@[simp] theorem complete_err : (complete s).err = s.err := rfl
@[simp] theorem complete_eovf : (complete s).eovf = s.eovf := rfl
@[simp] theorem complete_errcode : (complete s).errcode = s.errcode := rfl
@[simp] theorem complete_ieDone : (complete s).ieDone = s.ieDone := rfl
@[simp] theorem complete_ieErr : (complete s).ieErr = s.ieErr := rfl
@[simp] theorem complete_errinfo : (complete s).errinfo = s.errinfo := rfl
@[simp] theorem complete_cmdcount : (complete s).cmdcount = s.cmdcount + 1 := rfl
@[simp] theorem complete_inReset : (complete s).inReset = s.inReset := rfl
@[simp] theorem complete_events : (complete s).events = s.events := rfl
@[simp] theorem complete_lastRead : (complete s).lastRead = s.lastRead := rfl
@[simp] theorem complete_unspecCount : (complete s).unspecCount = s.unspecCount := rfl
@[simp] theorem complete_unwrittenUse : (complete s).unwrittenUse = s.unwrittenUse := rfl

@[simp] theorem resetRegisters_sregs : (resetRegisters s).sregs = Vector.replicate 32 0 := rfl
@[simp] theorem resetRegisters_pregs : (resetRegisters s).pregs = s.pregs := rfl
@[simp] theorem resetRegisters_engine : (resetRegisters s).engine = .idle := rfl
@[simp] theorem resetRegisters_done : (resetRegisters s).done = false := rfl
@[simp] theorem resetRegisters_err : (resetRegisters s).err = false := rfl
@[simp] theorem resetRegisters_eovf : (resetRegisters s).eovf = false := rfl
@[simp] theorem resetRegisters_errcode : (resetRegisters s).errcode = 0 := rfl
@[simp] theorem resetRegisters_ieDone : (resetRegisters s).ieDone = false := rfl
@[simp] theorem resetRegisters_ieErr : (resetRegisters s).ieErr = false := rfl
@[simp] theorem resetRegisters_errinfo : (resetRegisters s).errinfo = 0 := rfl
@[simp] theorem resetRegisters_cmdcount : (resetRegisters s).cmdcount = 0 := rfl
@[simp] theorem resetRegisters_inReset : (resetRegisters s).inReset = s.inReset := rfl
@[simp] theorem resetRegisters_events : (resetRegisters s).events = s.events := rfl
@[simp] theorem resetRegisters_lastRead : (resetRegisters s).lastRead = s.lastRead := rfl
@[simp] theorem resetRegisters_unspecCount : (resetRegisters s).unspecCount = s.unspecCount := rfl
@[simp] theorem resetRegisters_unwrittenUse : (resetRegisters s).unwrittenUse = s.unwrittenUse := rfl

/-- Any error leaves ERR set (R103). -/
@[simp] theorem raiseError_err (e : ErrCode) (info : Word) : (raiseError e info s).err = true := by
  unfold raiseError; split <;> simp_all

end Sys2Proof.Machine
end

