-- ==== Sys2Proof/Laws/Registers.lean ====
section
/-! SUPPORT. Reading a register after a write, and what each operand form does to every register: the spec lemmas of
Machine/Ops.lean and Machine/Operands.lean. -/

namespace Sys2Proof.Machine

variable (s : State)

/-! ### Reads that depend on one field only -/

theorem readS_congr {s t : State} (h : t.sregs = s.sregs) (i : SReg) : t.readS i = s.readS i := by
  simp only [State.readS, h]

theorem coeff_congr {s t : State} (h : t.pregs = s.pregs) (r : PReg) (k : Fin 256) : t.coeff r k = s.coeff r k := by
  simp only [State.coeff, h]

theorem readCoeff_congr {s t : State} (h : t.pregs = s.pregs) (r : PReg) (k : Fin 256) :
    t.readCoeff r k = s.readCoeff r k := by simp only [State.readCoeff, coeff_congr h]

theorem readP_congr {s t : State} (h : t.pregs = s.pregs) (r : PReg) : t.readP r = s.readP r := by
  simp only [State.readP, readCoeff_congr h]

/-! ### Scalar registers -/

theorem readS_writeS (i j : SReg) (v : Word) : (s.writeS i v).readS j = if j = i then v else s.readS j := by
  simp only [State.readS, State.writeS, Vector.getElem_set, Fin.ext_iff, eq_comm (a := i.val)]

@[simp] theorem readS_writeS_same (i : SReg) (v : Word) : (s.writeS i v).readS i = v := by simp [readS_writeS]

theorem readS_writeS_other {i j : SReg} (h : j ≠ i) (v : Word) : (s.writeS i v).readS j = s.readS j := by
  simp [readS_writeS, h]

@[simp] theorem readS_writeP (r : PReg) (p : Lanes) (i : SReg) : (s.writeP r p).readS i = s.readS i := rfl
@[simp] theorem readS_consume (rs : List PReg) (i : SReg) : (s.consume rs).readS i = s.readS i := rfl
@[simp] theorem readS_complete (i : SReg) : (complete s).readS i = s.readS i := rfl

/-! ### Polynomial registers -/

theorem coeff_writeP (r q : PReg) (p : Lanes) (k : Fin 256) :
    (s.writeP r p).coeff q k = if q = r then .written p[k.val] else s.coeff q k := by
  simp only [State.coeff, State.writeP, Vector.getElem_set, Fin.ext_iff, eq_comm (a := r.val)]
  split <;> simp

theorem readCoeff_writeP (r q : PReg) (p : Lanes) (k : Fin 256) :
    (s.writeP r p).readCoeff q k = if q = r then p[k.val] else s.readCoeff q k := by
  simp only [State.readCoeff, coeff_writeP]
  split <;> rfl

@[simp] theorem getElem_readP (r : PReg) (k : Nat) (h : k < 256) : (s.readP r)[k] = s.readCoeff r ⟨k, h⟩ := by
  simp [State.readP]

theorem readP_writeP (r q : PReg) (p : Lanes) : (s.writeP r p).readP q = if q = r then p else s.readP q := by
  ext k hk
  simp only [getElem_readP, readCoeff_writeP]
  split <;> simp

@[simp] theorem readP_writeP_same (r : PReg) (p : Lanes) : (s.writeP r p).readP r = p := by simp [readP_writeP]

theorem readP_writeP_other {r q : PReg} (h : q ≠ r) (p : Lanes) : (s.writeP r p).readP q = s.readP q := by
  simp [readP_writeP, h]

theorem coeff_writeCoeff (r q : PReg) (k l : Fin 256) (v : Word) :
    (s.writeCoeff r k v).coeff q l = if q = r ∧ l = k then .written v else s.coeff q l := by
  simp only [State.coeff, State.writeCoeff, Vector.getElem_set]
  by_cases hq : q = r
  · subst hq
    by_cases hl : l = k
    · simp [hl]
    · simp [hl, Fin.ext_iff.not.mp (Ne.symm hl)]
  · simp [hq, Fin.ext_iff.not.mp (Ne.symm hq)]

@[simp] theorem coeff_writeS (i : SReg) (v : Word) (r : PReg) (k : Fin 256) : (s.writeS i v).coeff r k = s.coeff r k := rfl
@[simp] theorem coeff_consume (rs : List PReg) (r : PReg) (k : Fin 256) : (s.consume rs).coeff r k = s.coeff r k := rfl
@[simp] theorem coeff_complete (r : PReg) (k : Fin 256) : (complete s).coeff r k = s.coeff r k := rfl
@[simp] theorem readP_writeS (i : SReg) (v : Word) (r : PReg) : (s.writeS i v).readP r = s.readP r := rfl
@[simp] theorem readP_consume (rs : List PReg) (r : PReg) : (s.consume rs).readP r = s.readP r := rfl
@[simp] theorem readP_complete (r : PReg) : (complete s).readP r = s.readP r := rfl
@[simp] theorem readCoeff_writeS (i : SReg) (v : Word) (r : PReg) (k : Fin 256) :
    (s.writeS i v).readCoeff r k = s.readCoeff r k := rfl
@[simp] theorem readCoeff_consume (rs : List PReg) (r : PReg) (k : Fin 256) :
    (s.consume rs).readCoeff r k = s.readCoeff r k := rfl
@[simp] theorem readCoeff_complete (r : PReg) (k : Fin 256) : (complete s).readCoeff r k = s.readCoeff r k := rfl
@[simp] theorem busy_complete : (complete s).busy = false := rfl
@[simp] theorem busy_accept (v : Word) : (accept v s).busy = true := rfl
@[simp] theorem busy_resetRegisters : (resetRegisters s).busy = false := rfl

/-! ### Unspecified contents -/

theorem pregs_foldl_set (n : Nat) (rs : List PReg) (p : Vector (Vector Coeff 256) 32) (q : PReg) :
    (rs.foldl (fun p r => p.set r.val (Vector.replicate 256 (Coeff.unwritten n))) p)[q.val] =
      if q ∈ rs then Vector.replicate 256 (.unwritten n) else p[q.val] := by
  induction rs generalizing p with
  | nil => simp
  | cons r rs ih =>
    rw [List.foldl_cons, ih, Vector.getElem_set]
    by_cases h1 : q ∈ rs
    · simp [h1]
    · by_cases h2 : q = r
      · simp [h2]
      · simp [h1, h2, Fin.ext_iff.not.mp (Ne.symm h2)]

/-- `loseP` leaves exactly the registers of its list unspecified, by a new event (R117). -/
theorem coeff_loseP (rs : List PReg) (q : PReg) (k : Fin 256) :
    (s.loseP rs).coeff q k = if q ∈ rs then .unwritten s.unspecCount else s.coeff q k := by
  simp only [State.coeff, State.loseP, pregs_foldl_set]
  split <;> simp

theorem hasUnwritten_iff (r : PReg) : s.hasUnwritten r = true ↔ ∃ k, (s.coeff r k).isUnwritten = true := by
  simp only [State.hasUnwritten, State.coeff, List.any_eq_true, List.mem_iff_getElem]
  constructor
  · rintro ⟨c, ⟨k, hk, rfl⟩, hc⟩
    exact ⟨⟨k, by simpa using hk⟩, by simpa using hc⟩
  · rintro ⟨k, hk⟩
    exact ⟨_, ⟨k.val, by simp, rfl⟩, by simpa using hk⟩

/-! ### Lane lifting -/

@[simp] theorem getElem_mapLanes {α : Type} (f : Word → α) (a : Lanes) (k : Nat) (h : k < 256) :
    (mapLanes f a)[k] = f a[k] := by simp [mapLanes]

@[simp] theorem getElem_zipLanes (f : Word → Word → Word) (a b : Lanes) (k : Nat) (h : k < 256) :
    (zipLanes f a b)[k] = f a[k] b[k] := by simp [zipLanes]

theorem mapLanes_id (a : Lanes) : mapLanes id a = a := by ext k hk; simp

@[simp] theorem length_vectorRegs (r : PReg) (n : Nat) : (vectorRegs r n).length = n := by simp [vectorRegs]

/-- Inside the file, register j of a vector is register number `r + j` (R54, R95). -/
theorem getElem_vectorRegs (r : PReg) (n j : Nat) (h : r.val + n ≤ 32) (hj : j < (vectorRegs r n).length) :
    ((vectorRegs r n)[j]).val = r.val + j := by
  have : j < n := by simpa using hj
  simp [vectorRegs, Fin.ofNat, Nat.mod_eq_of_lt (show r.val + j < 32 by omega)]

/-! ### Operand forms: what each does to S, to P and to the fault record -/

theorem readS_scalarUnary (f : Word → Word) (rd rs1 i : SReg) :
    (scalarUnary f rd rs1 s).readS i = if i = rd then f (s.readS rs1) else s.readS i := by
  simp only [scalarUnary, readS_complete, readS_writeS]

theorem readS_scalarBinary (f : Word → Word → Word) (rd rs1 rs2 i : SReg) :
    (scalarBinary f rd rs1 rs2 s).readS i = if i = rd then f (s.readS rs1) (s.readS rs2) else s.readS i := by
  simp only [scalarBinary, readS_complete, readS_writeS]

theorem readS_scalarSplit (f : Word → Word × Word) (rd rs1 re i : SReg) :
    (scalarSplit f rd rs1 re s).readS i =
      if i = re then (f (s.readS rs1)).2 else if i = rd then (f (s.readS rs1)).1 else s.readS i := by
  simp only [scalarSplit, readS_complete, readS_writeS]

@[simp] theorem coeff_scalarUnary (f : Word → Word) (rd rs1 : SReg) (r : PReg) (k : Fin 256) :
    (scalarUnary f rd rs1 s).coeff r k = s.coeff r k := rfl
@[simp] theorem coeff_scalarBinary (f : Word → Word → Word) (rd rs1 rs2 : SReg) (r : PReg) (k : Fin 256) :
    (scalarBinary f rd rs1 rs2 s).coeff r k = s.coeff r k := rfl
@[simp] theorem coeff_scalarSplit (f : Word → Word × Word) (rd rs1 re : SReg) (r : PReg) (k : Fin 256) :
    (scalarSplit f rd rs1 re s).coeff r k = s.coeff r k := rfl

theorem coeff_polyUnary (g : Lanes → Lanes) (rd rs1 q : PReg) (k : Fin 256) :
    (polyUnary g rd rs1 s).coeff q k = if q = rd then .written (g (s.readP rs1))[k.val] else s.coeff q k := by
  simp only [polyUnary, coeff_complete, coeff_writeP, coeff_consume]

theorem coeff_polyBinary (g : Lanes → Lanes → Lanes) (rd rs1 rs2 q : PReg) (k : Fin 256) :
    (polyBinary g rd rs1 rs2 s).coeff q k =
      if q = rd then .written (g (s.readP rs1) (s.readP rs2))[k.val] else s.coeff q k := by
  simp only [polyBinary, coeff_complete, coeff_writeP, coeff_consume]

theorem coeff_polySplit (f : Word → Word × Word) (rd rs1 re q : PReg) (k : Fin 256) :
    (polySplit f rd rs1 re s).coeff q k =
      if q = re then .written (f (s.readCoeff rs1 k)).2
      else if q = rd then .written (f (s.readCoeff rs1 k)).1 else s.coeff q k := by
  simp [polySplit, coeff_writeP]

@[simp] theorem readS_polyUnary (g : Lanes → Lanes) (rd rs1 : PReg) (i : SReg) :
    (polyUnary g rd rs1 s).readS i = s.readS i := rfl
@[simp] theorem readS_polyBinary (g : Lanes → Lanes → Lanes) (rd rs1 rs2 : PReg) (i : SReg) :
    (polyBinary g rd rs1 rs2 s).readS i = s.readS i := rfl
@[simp] theorem readS_polySplit (f : Word → Word × Word) (rd rs1 re : PReg) (i : SReg) :
    (polySplit f rd rs1 re s).readS i = s.readS i := rfl

/-- The fault record after a command consumed `rs` (R16). -/
theorem unwrittenUse_consume (rs : List PReg) :
    (s.consume rs).unwrittenUse = true ↔
      s.unwrittenUse = true ∨ ∃ r ∈ rs, ∃ k, (s.coeff r k).isUnwritten = true := by
  simp only [State.consume, Bool.or_eq_true, List.any_eq_true, hasUnwritten_iff]

end Sys2Proof.Machine
end

