-- ==== Sys2Proof/Laws/Steps.lean ====
section
/-! SUPPORT. What each shared operation, each host access and each step can do, said once. -/

namespace Sys2Proof.Machine

/-! ### Errors -/

/-- R103: a first error is recorded whole; a later one only sets EOVF. -/
theorem raiseError_cases (e : ErrCode) (info : Word) (s : State) :
    (s.err = true ∧ raiseError e info s = { s with eovf := true }) ∨
    (s.err = false ∧ raiseError e info s =
      { s with err := true, errcode := ErrCode.number e, errinfo := info }) := by
  cases h : s.err <;> simp [raiseError, h]

@[simp] theorem busy_raiseError (e : ErrCode) (info : Word) (s : State) : (raiseError e info s).busy = s.busy := by
  simp only [State.busy, raiseError_engine]

theorem ErrCode.number_range (e : ErrCode) : 1 ≤ (ErrCode.number e).toNat ∧ (ErrCode.number e).toNat ≤ 6 := by
  cases e <;> decide

theorem ErrorFieldsAgree_congr {s t : State} (he : t.err = s.err) (ho : t.eovf = s.eovf) (hc : t.errcode = s.errcode)
    (hi : t.errinfo = s.errinfo) (h : s.ErrorFieldsAgree) : t.ErrorFieldsAgree := by
  simpa only [State.ErrorFieldsAgree, he, ho, hc, hi] using h

theorem raiseError_keeps_ErrorFieldsAgree (e : ErrCode) (info : Word) {s : State} (h : s.ErrorFieldsAgree) :
    (raiseError e info s).ErrorFieldsAgree := by
  obtain ⟨he, hs⟩ | ⟨_, hs⟩ := raiseError_cases e info s
  · rw [hs]; exact ⟨fun h' => by simp [he] at h', h.2⟩
  · rw [hs]; exact ⟨fun h' => by simp at h', fun _ => ErrCode.number_range e⟩

theorem clearError_ErrorFieldsAgree (s : State) : (clearError s).ErrorFieldsAgree :=
  ⟨fun _ => ⟨rfl, rfl, rfl⟩, fun h => by simp at h⟩

/-! ### Reset -/

theorem resetBlock_eq (s : State) :
    resetBlock s = resetRegisters s ∨ resetBlock s = resetRegisters (s.loseP (abortedDests s)) := by
  unfold resetBlock; split <;> simp

@[simp] theorem resetBlock_engine (s : State) : (resetBlock s).engine = .idle := rfl
@[simp] theorem resetBlock_inReset (s : State) : (resetBlock s).inReset = s.inReset := by
  obtain h | h := resetBlock_eq s <;> rw [h] <;> rfl
@[simp] theorem resetBlock_events (s : State) : (resetBlock s).events = s.events := by
  obtain h | h := resetBlock_eq s <;> rw [h] <;> rfl

theorem resetRegisters_ErrorFieldsAgree (s : State) : (resetRegisters s).ErrorFieldsAgree :=
  ⟨fun _ => ⟨rfl, rfl, rfl⟩, fun h => by simp at h⟩

/-- Every reset, and a power cycle, gives the values of R118. -/
theorem resetRegisters_HasResetValues (s : State) : (resetRegisters s).HasResetValues :=
  ⟨by simp [statusWord], by simp [ctrlWord], rfl, rfl, fun i => by simp [State.readS, resetRegisters], rfl,
    by simp [irq]⟩

theorem resetBlock_HasResetValues (s : State) : (resetBlock s).HasResetValues := by
  obtain h | h := resetBlock_eq s <;> rw [h] <;> exact resetRegisters_HasResetValues _

theorem powerCycle_HasResetValues (s : State) : (powerCycle s).HasResetValues := resetRegisters_HasResetValues _

/-- The values of R118 are about registers only: the level of rst_n and the pending events do not matter. -/
theorem HasResetValues_outside {s : State} (h : s.HasResetValues) (es : List Event) (low : Bool) :
    ({ s with events := es, inReset := low } : State).HasResetValues := ⟨h.1, h.2, h.3, h.4, h.5, h.6, h.7⟩

@[simp] theorem coeff_resetRegisters (s : State) (r : PReg) (k : Fin 256) :
    (resetRegisters s).coeff r k = s.coeff r k := rfl

/-- A reset while a command is in progress leaves exactly that command's polynomial destinations unspecified (R117). -/
theorem coeff_resetBlock_busy {s : State} {v : Word} {i : Instr} (hb : s.engine = .busy v) (hd : decode v = .ok i)
    (r : PReg) (k : Fin 256) :
    (resetBlock s).coeff r k = if r ∈ polyDests i then .unwritten s.unspecCount else s.coeff r k := by
  simp [resetBlock, State.busy, hb, abortedDests, hd, coeff_loseP]

/-- A reset while idle leaves the P file alone (R118). -/
theorem resetBlock_pregs_idle {s : State} (h : s.engine = .idle) : (resetBlock s).pregs = s.pregs := by
  simp [resetBlock, State.busy, h]

theorem resetBlock_ErrorFieldsAgree (s : State) : (resetBlock s).ErrorFieldsAgree := by
  obtain h | h := resetBlock_eq s <;> rw [h] <;> exact resetRegisters_ErrorFieldsAgree _

/-! ### Commands -/

/-- What any command can do: complete, after changing only S, P and the fault record of R16. No command stops. -/
theorem exec_eq_complete (i : Instr) (s : State) :
    ∃ u : State, exec i s = .next (complete u) ∧
      u = { s with sregs := u.sregs, pregs := u.pregs, unwrittenUse := u.unwrittenUse } := by
  cases i <;> exact ⟨_, rfl, rfl⟩

theorem exec_completes (i : Instr) (s : State) : ∃ t, exec i s = .next t ∧ CompletedFrom s t := by
  obtain ⟨u, hu, hs⟩ := exec_eq_complete i s
  refine ⟨_, hu, ?_⟩
  rw [hs]
  constructor <;> rfl

theorem exec_next {i : Instr} {s t : State} (h : exec i s = .next t) : CompletedFrom s t := by
  obtain ⟨u, hu, hc⟩ := exec_completes i s
  rw [h] at hu
  exact (Host.Outcome.next.inj hu) ▸ hc

/-! ### Host accesses -/

/-- What a host read can do: be refused with one error and return 0, or return a word and make at most a fault record. -/
theorem hostRead_cases (a : Addr) (size : Nat) (s : State) :
    (∃ e, accessError a size s = some e ∧
      hostRead a size s = { raiseError e (a.setWidth 32) s with lastRead := some 0 }) ∨
    (accessError a size s = none ∧
      hostRead a size s = { s with unwrittenUse := (hostRead a size s).unwrittenUse,
                                   lastRead := some (readTarget s (target a)) }) := by
  unfold hostRead
  cases h : accessError a size s with
  | some e => exact .inl ⟨e, rfl, rfl⟩
  | none => exact .inr ⟨rfl, by cases target a <;> rfl⟩

/-- What a host write can do: be refused with one error, or act on its target. -/
theorem hostWrite_cases (a : Addr) (size : Nat) (v : Word) (s : State) :
    (∃ e, accessError a size s = some e ∧ hostWrite a size v s = raiseError e (a.setWidth 32) s) ∨
    (accessError a size s = none ∧ hostWrite a size v s = writeTarget v s (target a)) := by
  unfold hostWrite
  cases h : accessError a size s with
  | some e => exact .inl ⟨e, rfl, rfl⟩
  | none => exact .inr ⟨rfl, rfl⟩

/-- What a CMD write can do (R26): one error, or acceptance of a word that decodes. -/
theorem writeCmd_cases (v : Word) (s : State) :
    (∃ e, writeCmd v s = raiseError e v s) ∨
    (s.busy = false ∧ (∃ i, decode v = .ok i) ∧ writeCmd v s = accept v s) := by
  unfold writeCmd
  cases s.busy with
  | true => exact .inl ⟨_, rfl⟩
  | false =>
    cases h : decode v with
    | error e => exact .inl ⟨e, by simp⟩
    | ok i => exact .inr ⟨rfl, ⟨i, rfl⟩, by simp⟩

/-- No access moves rst_n. -/
@[simp] theorem writeTarget_inReset (v : Word) (s : State) (x : Target) : (writeTarget v s x).inReset = s.inReset := by
  cases x with
  | cmd => obtain ⟨e, he⟩ | ⟨_, _, he⟩ := writeCmd_cases v s <;> simp [writeTarget, he]
  | status => simp only [writeTarget, writeStatus]; split <;> split <;> simp
  | ctrl => simp only [writeTarget, writeCtrl]; split <;> simp
  | _ => rfl

@[simp] theorem hostWrite_inReset (a : Addr) (size : Nat) (v : Word) (s : State) :
    (hostWrite a size v s).inReset = s.inReset := by
  obtain ⟨e, -, he⟩ | ⟨-, he⟩ := hostWrite_cases a size v s <;> simp [he]

@[simp] theorem hostRead_inReset (a : Addr) (size : Nat) (s : State) : (hostRead a size s).inReset = s.inReset := by
  obtain ⟨e, -, he⟩ | ⟨-, he⟩ := hostRead_cases a size s <;> rw [he]
  simp

/-- With rst_n high the invariant's reset clause asks nothing. -/
theorem ResetHoldsValues_of_released {s : State} (h : s.inReset = false) : s.ResetHoldsValues := by
  simp [State.ResetHoldsValues, h]

/-! ### Steps -/

/-- What the engine's step can do when it goes on (R27). -/
theorem engineStep_next {s t : State} (h : engineStep s = .next t) :
    (s.engine = .idle ∧ t = s) ∨
    (∃ v i, s.engine = .busy v ∧ decode v = .ok i ∧ exec i s = .next t) := by
  unfold engineStep at h
  cases he : s.engine with
  | idle => rw [he] at h; exact .inl ⟨rfl, (Host.Outcome.next.inj h).symm⟩
  | busy v =>
    rw [he] at h
    cases hd : decode v with
    | error e => simp [hd] at h
    | ok i => exact .inr ⟨v, i, rfl, hd, by simpa [hd] using h⟩

/-- What a step can do when it goes on: the engine's step, or the first pending event. -/
theorem step_next {s t : State} (h : step s = .next t) :
    (s.events = [] ∧ engineStep s = .next t) ∨
    (∃ e rest, s.events = e :: rest ∧ eventStep e { s with events := rest } = .next t) := by
  unfold step stepOnce at h
  cases he : s.events with
  | nil => rw [he] at h; exact .inl ⟨rfl, h⟩
  | cons e rest => rw [he] at h; exact .inr ⟨e, rest, rfl, h⟩

/-- A step with an event pending is that event (R42). -/
theorem step_of_event {s : State} {e : Event} {rest : List Event} (h : s.events = e :: rest) :
    step s = eventStep e { s with events := rest } := by simp only [step, stepOnce, h]

/-- What an allowed write can do to DONE, ERR and the enables: the write of STATUS, of CTRL, or nothing that clears. -/
theorem writeTarget_interrupt_bits (v : Word) (s : State) (x : Target) :
    (x = .status ∧ writeTarget v s x = writeStatus v s) ∨ (x = .ctrl ∧ writeTarget v s x = writeCtrl v s) ∨
    ((writeTarget v s x).done = s.done ∧ (s.err = true → (writeTarget v s x).err = true) ∧
      (writeTarget v s x).ieDone = s.ieDone ∧ (writeTarget v s x).ieErr = s.ieErr) := by
  cases x with
  | status => exact .inl ⟨rfl, rfl⟩
  | ctrl => exact .inr (.inl ⟨rfl, rfl⟩)
  | cmd =>
    refine .inr (.inr ?_)
    obtain ⟨e, he⟩ | ⟨_, _, he⟩ := writeCmd_cases v s
    · obtain ⟨_, hr⟩ | ⟨_, hr⟩ := raiseError_cases e v s <;> simp only [writeTarget, he, hr] <;> simp
    · simp only [writeTarget, he]; simp [accept]
  | _ => exact .inr (.inr (by simp [writeTarget]))

end Sys2Proof.Machine
end

