-- ==== Sys2Proof/Laws/Port.lean ====
section
/-! SUPPORT. The host port: which addresses name what, and what an access does once its target is known. -/

namespace Sys2Proof.Machine

/-- An aligned word access raises no error when the engine is idle or the target is no register file (R41, R104). -/
theorem accessError_none {a : Addr} {s : State} (ha : a.toNat % 4 = 0)
    (hb : s.busy = false ∨ (target a).isRegisterFile = false) : accessError a 4 s = none := by
  unfold accessError
  rw [if_neg (by simp [ha]), if_neg (by rintro ⟨h1, h2⟩; rcases hb with h | h <;> simp_all)]

theorem hostRead_of_target {a : Addr} {s : State} {x : Target} (hx : target a = x) (ha : a.toNat % 4 = 0)
    (hb : s.busy = false ∨ x.isRegisterFile = false) :
    hostRead a 4 s = { noteRead s x with lastRead := some (readTarget s x) } := by
  subst hx; simp only [hostRead, accessError_none ha hb]

theorem hostWrite_of_target {a : Addr} {s : State} {x : Target} (v : Word) (hx : target a = x) (ha : a.toNat % 4 = 0)
    (hb : s.busy = false ∨ x.isRegisterFile = false) : hostWrite a 4 v s = writeTarget v s x := by
  subst hx; simp only [hostWrite, accessError_none ha hb]

/-! ### The address map (R31) -/

theorem target_id : target 0x0000 = .id := by decide
theorem target_cmd : target 0x0004 = .cmd := by decide
theorem target_status : target 0x0008 = .status := by decide
theorem target_ctrl : target 0x000C = .ctrl := by decide
theorem target_errinfo : target 0x0010 = .errinfo := by decide
theorem target_cmdcount : target 0x0014 = .cmdcount := by decide
theorem target_hwcfg : target 0x0018 = .hwcfg := by decide

theorem target_scalar (i : SReg) : target (BitVec.ofNat 16 (0x0100 + 4 * i.val)) = .scalar i := by
  revert i; decide

theorem target_coeff (r : PReg) (k : Fin 256) :
    target (BitVec.ofNat 16 (0x8000 + 4 * (256 * r.val + k.val))) = .coeff r k := by
  have hr := r.isLt
  have hk := k.isLt
  have hn : (BitVec.ofNat 16 (0x8000 + 4 * (256 * r.val + k.val))).toNat = 0x8000 + 4 * (256 * r.val + k.val) := by
    rw [BitVec.toNat_ofNat]; omega
  simp only [target, hn]
  iterate 10 rw [if_neg (by omega)]
  rw [if_pos (by omega)]
  congr 1
  · apply Fin.ext
    show (BitVec.extractLsb' 10 5 _).toNat = _
    rw [BitVec.extractLsb'_toNat, hn, Nat.shiftRight_eq_div_pow]; omega
  · apply Fin.ext
    show (BitVec.extractLsb' 2 8 _).toNat = _
    rw [BitVec.extractLsb'_toNat, hn, Nat.shiftRight_eq_div_pow]; omega

/-- The S and P ranges are the register files (R31, R41). -/
theorem target_isRegisterFile (a : Addr) (h : (0x0100 ≤ a.toNat ∧ a.toNat < 0x0180) ∨ 0x8000 ≤ a.toNat) :
    (target a).isRegisterFile = true := by
  unfold target
  simp only
  repeat' split
  all_goals first | rfl | omega

/-- An address R31 does not name (R38). -/
theorem target_reserved (a : Addr) (ha : a.toNat % 4 = 0)
    (h : (0x001C ≤ a.toNat ∧ a.toNat < 0x0100) ∨ (0x0180 ≤ a.toNat ∧ a.toNat < 0x0400) ∨
      (0x0C00 ≤ a.toNat ∧ a.toNat < 0x8000)) : target a = .reserved := by
  unfold target
  simp only
  repeat' split
  all_goals first | rfl | omega

/-- The two ROM ranges (R34). -/
theorem target_rom (a : Addr) (h : 0x0400 ≤ a.toNat ∧ a.toNat < 0x0C00) :
    target a = if a.toNat < 0x0800 then .zetas ((a.toNat - 0x0400) / 4) else .zetasInv ((a.toNat - 0x0800) / 4) := by
  unfold target
  simp only
  iterate 8 rw [if_neg (by omega)]
  by_cases hl : a.toNat < 0x0800
  · rw [if_pos (by omega), if_pos hl]
  · rw [if_neg (by omega), if_pos (by omega), if_neg hl]

/-- Only CTRL is at 0x000C (R31). -/
theorem target_eq_ctrl {a : Addr} (h : target a = .ctrl) : a = 0x000C := by
  unfold target at h
  simp only at h
  repeat' split at h
  all_goals first | (cases h; done) | (apply BitVec.eq_of_toNat_eq; simpa using ‹a.toNat = 0x000C›)

/-- Only CMD is at 0x0004 (R31). -/
theorem target_eq_cmd {a : Addr} (h : target a = .cmd) : a = 0x0004 := by
  unfold target at h
  simp only at h
  repeat' split at h
  all_goals first | (cases h; done) | (apply BitVec.eq_of_toNat_eq; simpa using ‹a.toNat = 0x0004›)

/-- Only STATUS is at 0x0008 (R31). -/
theorem target_eq_status {a : Addr} (h : target a = .status) : a = 0x0008 := by
  unfold target at h
  simp only at h
  repeat' split at h
  all_goals first | (cases h; done) | (apply BitVec.eq_of_toNat_eq; simpa using ‹a.toNat = 0x0008›)

end Sys2Proof.Machine
end

