-- ==== Sys2Proof/Laws/Transform.lean ====
section
/-! SUPPORT. The transforms of spec 42_ntt.md lane by lane: what one block, one level and the whole pass do. -/

namespace Sys2Proof.Machine

open Config

@[simp] theorem length_blockPass (f : Butterfly) (z : Word) (len : Nat) (p : List Word) (h : p.length = 2 * len) :
    (blockPass f z len p).length = 2 * len := by
  simp only [blockPass, List.length_append, List.length_map, List.length_zipWith, List.length_take, List.length_drop]
  omega

/-- One block, lane by lane: lane i of the lower half is paired with lane i + len. -/
theorem getD_blockPass (f : Butterfly) (z : Word) (len : Nat) (p : List Word) (h : p.length = 2 * len) (i : Nat)
    (hi : i < 2 * len) :
    (blockPass f z len p).getD i 0 =
      if i < len then (f z (p.getD i 0) (p.getD (i + len) 0)).1
      else (f z (p.getD (i - len) 0) (p.getD i 0)).2 := by
  have hr : (List.zipWith (f z) (p.take len) (p.drop len)).length = len := by
    simp only [List.length_zipWith, List.length_take, List.length_drop]; omega
  simp only [blockPass, List.getD_eq_getElem?_getD]
  by_cases hl : i < len
  · rw [List.getElem?_append_left (by rw [List.length_map, hr]; exact hl)]
    simp only [hl, if_true]
    rw [List.getElem?_eq_getElem (by rw [List.length_map, hr]; exact hl), List.getElem?_eq_getElem (by omega),
      List.getElem?_eq_getElem (by omega)]
    simp [Nat.add_comm]
  · have hil : i - len < len := by omega
    rw [List.getElem?_append_right (by rw [List.length_map, hr]; omega)]
    simp only [hl, if_false, List.length_map, hr]
    rw [List.getElem?_eq_getElem (by rw [List.length_map, hr]; exact hil), List.getElem?_eq_getElem (by omega),
      List.getElem?_eq_getElem (by omega)]
    simp only [List.getElem_map, List.getElem_zipWith, List.getElem_take, List.getElem_drop, Option.getD_some]
    congr 3
    omega

@[simp] theorem length_levelPass (f : Butterfly) (T : List Word) (len blocks k : Nat) (p : List Word)
    (h : p.length = blocks * (2 * len)) : (levelPass f T len blocks k p).length = blocks * (2 * len) := by
  induction blocks generalizing k p with
  | zero => simp [levelPass]
  | succ b ih =>
    have h1 : (b + 1) * (2 * len) = 2 * len + b * (2 * len) := by ring
    rw [levelPass, List.length_append, length_blockPass _ _ _ _ (by rw [List.length_take]; omega),
      ih _ _ (by rw [List.length_drop]; omega), h1]

/-- One level, lane by lane (R87's index of a block's twiddle, R89, R90): lane i lies in block `i / (2·len)`. -/
theorem getD_levelPass (f : Butterfly) (T : List Word) (len : Nat) (hlen : 0 < len) (blocks k : Nat) (p : List Word)
    (h : p.length = blocks * (2 * len)) (i : Nat) (hi : i < blocks * (2 * len)) :
    (levelPass f T len blocks k p).getD i 0 =
      if i % (2 * len) < len then (f (T.getD (k + i / (2 * len)) 0) (p.getD i 0) (p.getD (i + len) 0)).1
      else (f (T.getD (k + i / (2 * len)) 0) (p.getD (i - len) 0) (p.getD i 0)).2 := by
  induction blocks generalizing k p i with
  | zero => simp at hi
  | succ b ih =>
    have h1 : (b + 1) * (2 * len) = 2 * len + b * (2 * len) := by ring
    have hb : (p.take (2 * len)).length = 2 * len := by rw [List.length_take]; omega
    have hlb := length_blockPass f (T.getD k 0) len _ hb
    have take_getD : ∀ j, j < 2 * len → (p.take (2 * len)).getD j 0 = p.getD j 0 := by
      intro j hj; simp [List.getD_eq_getElem?_getD, hj]
    have drop_getD : ∀ j, (p.drop (2 * len)).getD j 0 = p.getD (2 * len + j) 0 := by
      intro j; simp [List.getD_eq_getElem?_getD, List.getElem?_drop]
    rw [levelPass]
    by_cases hc : i < 2 * len
    · rw [List.getD_eq_getElem?_getD, List.getElem?_append_left (by omega), ← List.getD_eq_getElem?_getD,
        getD_blockPass f _ len _ hb i hc, Nat.mod_eq_of_lt hc, Nat.div_eq_of_lt hc, Nat.add_zero]
      split
      · rw [take_getD i hc, take_getD (i + len) (by omega)]
      · rw [take_getD (i - len) (by omega), take_getD i hc]
    · have hge : 2 * len ≤ i := by omega
      have hpos : 0 < 2 * len := by omega
      have hm : (i - 2 * len) % (2 * len) = i % (2 * len) := by
        conv_rhs => rw [← Nat.sub_add_cancel hge, Nat.add_mod_right]
      have hd : i / (2 * len) = (i - 2 * len) / (2 * len) + 1 := by
        conv_lhs => rw [← Nat.sub_add_cancel hge, Nat.add_div_right _ hpos]
      rw [List.getD_eq_getElem?_getD, List.getElem?_append_right (by omega), ← List.getD_eq_getElem?_getD, hlb,
        ih (k + 1) _ (by rw [List.length_drop]; omega) (i - 2 * len) (by omega), hm, hd,
        show k + 1 + (i - 2 * len) / (2 * len) = k + ((i - 2 * len) / (2 * len) + 1) by omega]
      split
      · rw [drop_getD, drop_getD, show 2 * len + (i - 2 * len) = i by omega,
          show 2 * len + (i - 2 * len + len) = i + len by omega]
      · rename_i hnl
        have hle : len ≤ i - 2 * len := by
          by_contra hlt
          rw [← hm, Nat.mod_eq_of_lt (by omega)] at hnl
          omega
        rw [drop_getD, drop_getD, show 2 * len + (i - 2 * len) = i by omega,
          show 2 * len + (i - 2 * len - len) = i - len by omega]

theorem length_levels (f : Butterfly) (T : List Word) (lens : List Nat) (k : Nat) (p : List Word) (hp : p.length = 256)
    (h : ∀ len ∈ lens, 256 / (2 * len) * (2 * len) = 256) : (levels f T lens k p).length = 256 := by
  induction lens generalizing k p with
  | nil => exact hp
  | cons len lens ih =>
    have hl := h len (by simp)
    simp only [levels, N]
    exact ih _ _ (by rw [length_levelPass _ _ _ _ _ _ (by rw [hp, hl]), hl]) fun l hm => h l (by simp [hm])

theorem toList_lanesOf {p : List Word} (h : p.length = 256) : (lanesOf p).toList = p := by simp [lanesOf, h]

theorem getElem_lanesOf {p : List Word} (h : p.length = 256) (k : Nat) (hk : k < 256) : (lanesOf p)[k] = p.getD k 0 := by
  simp [lanesOf, h, hk]

/-- NTT as a list: the eight levels of R89. -/
theorem toList_ntt (a : Lanes) :
    (ntt a).toList = levels forwardButterfly ZETAS [128, 64, 32, 16, 8, 4, 2, 1] 1 a.toList :=
  toList_lanesOf (length_levels _ _ _ _ _ (by simp) (by decide))

/-- INTT as a list: the eight levels and the scaling of R90. -/
theorem toList_intt (a : Lanes) :
    (intt a).toList =
      (levels inverseButterfly ZETAS_INV [1, 2, 4, 8, 16, 32, 64, 128] 0 a.toList).map (mmul F_INV) :=
  toList_lanesOf (by rw [List.length_map]; exact length_levels _ _ _ _ _ (by simp) (by decide))

end Sys2Proof.Machine
end

