-- ==== Sys2Proof/Tests/Slice0.lean ====
section
/-! SUPPORT. Small tests. Every expected value is one of spec 95_test_vectors.md (its vector is named in the docstring)
or is written out by hand from the rule named. The second part shows, for each statement with hypotheses, a concrete
case that meets them. -/

namespace Sys2Proof.Tests

set_option Elab.async false

open Sys2Proof.Machine Sys2Proof.SpecMath
open Sys2Proof.Config (Q QINV MONT ROOT ALPHA GAMMA2 ZETAS ZETAS_INV)

/-- The state a command leads to. -/
def after (i : Instr) (s : State) : State :=
  match exec i s with
  | .next t => t
  | .fault _ => s
  | .refused _ => s

/-- The state one step leads to. -/
def stepped (s : State) : State :=
  match step s with
  | .next t => t
  | .fault _ => s
  | .refused _ => s

/-- The reset state with S1 and S2 written. -/
def withS (a b : Word) : State := (State.reset.writeS 1 a).writeS 2 b

/-- A polynomial by its first coefficients; the others are 0. -/
def poly (cs : List Word) : Lanes := lanesOf (cs ++ List.replicate (256 - cs.length) 0)

/-- A polynomial with every coefficient `w`. -/
def constant (w : Word) : Lanes := Vector.replicate 256 w

/-- The reset state with the command NOP in progress. -/
def busyState : State := accept 0 State.reset

/-! ### WellFormed refuses each kind of ill-formed command (R54) -/

theorem test_wellformed_refuses_sP2r : (Instr.sP2r 2 2 2).wellFormed = false := by decide
theorem test_wellformed_refuses_sDecomp : (Instr.sDecomp 31 0 31).wellFormed = false := by decide
theorem test_wellformed_refuses_pP2r : (Instr.pP2r 0 1 0).wellFormed = false := by decide
theorem test_wellformed_refuses_pDecomp : (Instr.pDecomp 5 1 5).wellFormed = false := by decide
/-- V-DEC-11. -/
theorem test_wellformed_refuses_pPwacc_empty : (Instr.pPwacc 0 0 0 0).wellFormed = false := by decide
/-- V-DEC-12. -/
theorem test_wellformed_refuses_pPwacc_rs1 : (Instr.pPwacc 0 30 0 3).wellFormed = false := by decide
theorem test_wellformed_refuses_pPwacc_rs2 : (Instr.pPwacc 0 0 30 3).wellFormed = false := by decide
/-- V-DEC-13: 29 + 3 = 32 is inside the file. -/
theorem test_wellformed_accepts_pPwacc_end : (Instr.pPwacc 0 29 29 3).wellFormed = true := by decide

/-! ### Decoding: one word of every row, from R51 and the vectors; the first four bit by bit -/

theorem test_decode_nop : decode 0 = .ok .nop := by decide
/-- opc 000001, rd 00010, rs1 00001, the rest 0. -/
theorem test_decode_sRed32 : decode 0b00000100010000010000000000000000 = .ok (.sRed32 2 1) := by decide
/-- opc 000110, rd 00010, rs1 00001, rs2 00000, re 00011, z 000000. -/
theorem test_decode_sP2r : decode 0b00011000010000010000000011000000 = .ok (.sP2r 2 1 3) := by decide
/-- opc 010101, rd 00011, rs1 00001, rs2 00010, re 00111, z 000000. -/
theorem test_decode_pMkhint : decode 0b01010100011000010001000111000000 = .ok (.pMkhint 3 1 2 7) := by decide
/-- opc 011011, rd 01000, rs1 00100, rs2 00110, re 00010, z 000000. -/
theorem test_decode_pPwacc : decode 0b01101101000001000011000010000000 = .ok (.pPwacc 8 4 6 2) := by decide
theorem test_decode_sCsubq : decode 0x08210000 = .ok (.sCsubq 1 1) := by decide
theorem test_decode_sFreeze : decode 0x0CA40000 = .ok (.sFreeze 5 4) := by decide
theorem test_decode_sMont : decode 0x10611000 = .ok (.sMont 3 1 2) := by decide
theorem test_decode_sMontmul : decode 0x14011000 = .ok (.sMontmul 0 1 2) := by decide
theorem test_decode_sDecomp : decode 0x1C4100C0 = .ok (.sDecomp 2 1 3) := by decide
theorem test_decode_sMkhint : decode 0x20611000 = .ok (.sMkhint 3 1 2) := by decide
theorem test_decode_sUsehint : decode 0x24011000 = .ok (.sUsehint 0 1 2) := by decide
theorem test_decode_pRed32 : decode 0x40410000 = .ok (.pRed32 2 1) := by decide
theorem test_decode_pCsubq : decode 0x44630000 = .ok (.pCsubq 3 3) := by decide
theorem test_decode_pFreeze : decode 0x48200000 = .ok (.pFreeze 1 0) := by decide
theorem test_decode_pP2r : decode 0x4C4100C0 = .ok (.pP2r 2 1 3) := by decide
theorem test_decode_pDecomp : decode 0x50810140 = .ok (.pDecomp 4 1 5) := by decide
theorem test_decode_pUsehint : decode 0x58611000 = .ok (.pUsehint 3 1 2) := by decide
theorem test_decode_pNtt : decode 0x60200000 = .ok (.pNtt 1 0) := by decide
theorem test_decode_pInvntt : decode 0x64200000 = .ok (.pInvntt 1 0) := by decide
theorem test_decode_pPwmul : decode 0x68611000 = .ok (.pPwmul 3 1 2) := by decide
theorem test_decode_pPolymul : decode 0x70611000 = .ok (.pPolymul 3 1 2) := by decide
theorem test_decode_pZero : decode 0x79200000 = .ok (.pZero 9) := by decide
theorem test_decode_pCopy : decode 0x7CA20000 = .ok (.pCopy 5 2) := by decide

/-- V-DEC-3 to V-DEC-6, and the ends of R55's ranges. -/
theorem test_decode_unassigned :
    [0x28000000, 0x3C000000, 0x5C000000, 0x74000000, 0x80000000, 0xFC000000].map decode =
      List.replicate 6 (.error .illegalOpcode) := by decide
/-- V-DEC-2, V-DEC-7, V-DEC-8, V-DEC-9. -/
theorem test_decode_reserved :
    [0x00000001, 0x04410800, 0x78010000, 0x546111C1].map decode = List.replicate 4 (.error .reservedField) := by decide
/-- V-DEC-10, V-DEC-11, V-DEC-12. -/
theorem test_decode_bad_operand :
    [0x18420080, 0x6C000000, 0x6C1E00C0].map decode = List.replicate 3 (.error .badOperand) := by decide
/-- V-DEC-13. -/
theorem test_decode_accepts_end_of_file : decode 0x6C1D00C0 = .ok (.pPwacc 0 29 0 3) := by decide
/-- No two rows of the opcode map have the same opcode (R51). -/
theorem test_opcodes_differ : (opcodeMap.map fun r => opcField r.pat).Nodup := by decide
/-- R37: the byte at the lowest address is the least significant. -/
theorem test_word_bytes : wordBytes 0x44514131 = [0x31, 0x41, 0x51, 0x44] := by decide
/-- The words of the assembled commands of program A. -/
theorem test_encode_program_a :
    [Instr.sMontmul 3 1 2, .sFreeze 5 4, .sMont 6 1 0].map encode = [0x14611000, 0x0CA40000, 0x10C10000] := by decide

/-! ### Scalar commands -/

/-- V-RCMD-1. -/
theorem test_sRed32 : (after (.sRed32 2 1) (withS 0x80000000 0)).readS 2 = 2096896 := by decide +kernel
/-- V-RED-10, with the source as destination. -/
theorem test_sRed32_max : (after (.sRed32 1 1) (withS 0xFFFFFFFF 0)).readS 1 = 12574208 := by decide +kernel
/-- V-RCMD-2. -/
theorem test_sCsubq : (after (.sCsubq 1 1) (withS 16760833 0)).readS 1 = 8380416 := by decide +kernel
/-- V-CSUBQ-7, V-CSUBQ-8. -/
theorem test_sCsubq_sign : (after (.sCsubq 3 1) (withS 2155864064 0)).readS 3 = 2147483647 ∧
    (after (.sCsubq 3 1) (withS 2155864065 0)).readS 3 = 2155864065 := by decide +kernel
/-- V-FREEZE-7. -/
theorem test_sFreeze : (after (.sFreeze 5 1) (withS 0xFFFFFFFF 0)).readS 5 = 4193791 := by decide +kernel
/-- V-RCMD-4. -/
theorem test_sMont : (after (.sMont 3 1 2) (withS 0x003FFE00 0)).readS 3 = 1 := by decide +kernel
/-- V-MRED-4, V-MRED-9: the high word is S[rs2]; the sum wraps. -/
theorem test_sMont_high : (after (.sMont 3 1 2) (withS 0 1)).readS 3 = 1 ∧
    (after (.sMont 3 1 2) (withS 0xFFFFFFFF 0xFFFFFFFF)).readS 3 = 114592 := by decide +kernel
/-- V-RCMD-5. -/
theorem test_sMontmul : (after (.sMontmul 0 1 2) (withS 4193792 5)).readS 0 = 5 := by decide +kernel
/-- V-MMUL-4. -/
theorem test_sMontmul_wrap : (after (.sMontmul 0 1 2) (withS 0xFFFFFFFF 0xFFFFFFFF)).readS 0 = 8265823 := by
  decide +kernel
/-- V-RND-5: the source is read before either write. -/
theorem test_sP2r : (after (.sP2r 1 1 3) (withS 8193 0)).readS 1 = 1 ∧
    (after (.sP2r 1 1 3) (withS 8193 0)).readS 3 = 8372226 := by decide +kernel
/-- V-P2R-8. -/
theorem test_sP2r_wrap : (after (.sP2r 2 1 3) (withS 0xFFFFFFFF 0)).readS 2 = 0 ∧
    (after (.sP2r 2 1 3) (withS 0xFFFFFFFF 0)).readS 3 = 8380416 := by decide +kernel
/-- V-RND-2. -/
theorem test_sDecomp : (after (.sDecomp 2 1 3) (withS 785665 0)).readS 2 = 2 ∧
    (after (.sDecomp 2 1 3) (withS 785665 0)).readS 3 = 8118530 := by decide +kernel
/-- V-DEC2-7: the boundary bucket. -/
theorem test_sDecomp_boundary : (after (.sDecomp 2 1 3) (withS 8118529 0)).readS 2 = 0 ∧
    (after (.sDecomp 2 1 3) (withS 8118529 0)).readS 3 = 8118529 := by decide +kernel
/-- V-HCMD-1. -/
theorem test_sMkhint : (after (.sMkhint 3 1 2) (withS 261888 1)).readS 3 = 1 := by decide +kernel
/-- V-HINT-3. -/
theorem test_sMkhint_none : (after (.sMkhint 3 1 2) (withS 0 8380416)).readS 3 = 0 := by decide +kernel
/-- V-HCMD-2. -/
theorem test_sUsehint : (after (.sUsehint 0 1 2) (withS 8118528 1)).readS 0 = 0 := by decide +kernel
/-- V-USE-6 and V-USE-10: the tie decrements; any nonzero hint is set. -/
theorem test_sUsehint_tie : (after (.sUsehint 0 1 2) (withS 523776 1)).readS 0 = 0 ∧
    (after (.sUsehint 0 1 2) (withS 5 7)).readS 0 = 1 := by decide +kernel

/-! ### Polynomial commands, one coefficient of the result -/

/-- V-RCMD-6. -/
theorem test_pRed32 (k : Fin 256) :
    (after (.pRed32 2 1) (State.reset.writeP 1 (constant 0xFFFFFFFF))).coeff 2 k = .written 12574208 := by
  rw [show after (.pRed32 2 1) _ = polyUnary (mapLanes red32) 2 1 _ from rfl, coeff_polyUnary]
  simp [constant]; decide
/-- V-CSUBQ-8 in a lane. -/
theorem test_pCsubq (k : Fin 256) :
    (after (.pCsubq 3 3) (State.reset.writeP 3 (constant 2155864065))).coeff 3 k = .written 2155864065 := by
  rw [show after (.pCsubq 3 3) _ = polyUnary (mapLanes csubq) 3 3 _ from rfl, coeff_polyUnary]
  simp [constant]; decide
/-- V-FREEZE-4 in a lane. -/
theorem test_pFreeze (k : Fin 256) :
    (after (.pFreeze 1 0) (State.reset.writeP 0 (constant 25141256))).coeff 1 k = .written 5 := by
  rw [show after (.pFreeze 1 0) _ = polyUnary (mapLanes freeze) 1 0 _ from rfl, coeff_polyUnary]
  simp [constant]; decide
/-- V-RND-3, lane 0. -/
theorem test_pP2r (k : Fin 256) :
    let t := after (.pP2r 2 1 3) (State.reset.writeP 1 (constant 8193))
    t.coeff 2 k = .written 1 ∧ t.coeff 3 k = .written 8372226 := by
  rw [show after (.pP2r 2 1 3) _ = polySplit p2r 2 1 3 _ from rfl]
  simp [coeff_polySplit, readCoeff_writeP, constant]; decide
/-- V-RND-4, lane 16. -/
theorem test_pDecomp (k : Fin 256) :
    let t := after (.pDecomp 4 1 5) (State.reset.writeP 1 (constant 8380416))
    t.coeff 4 k = .written 0 ∧ t.coeff 5 k = .written 8380416 := by
  rw [show after (.pDecomp 4 1 5) _ = polySplit decomp 4 1 5 _ from rfl]
  simp [coeff_polySplit, readCoeff_writeP, constant]; decide
/-- V-HCMD-4, lane 15. -/
theorem test_pUsehint (k : Fin 256) :
    (after (.pUsehint 3 1 2) ((State.reset.writeP 1 (constant 7856641)).writeP 2 (constant 1))).coeff 3 k =
      .written 0 := by
  rw [show after (.pUsehint 3 1 2) _ = polyBinary (zipLanes useHint) 3 1 2 _ from rfl, coeff_polyBinary,
    readP_writeP_same, readP_writeP_other _ (by decide), readP_writeP_same]
  simp [constant]; decide
/-- R84: the count is added to S[re]. -/
theorem test_pMkhint_adds (a b : Lanes) (s : State) :
    (after (.pMkhint 3 1 2 7) ((s.writeP 1 a).writeP 2 b)).readS 7 =
      wrap32 ((s.readS 7).toNat + hintCount (zipLanes hint a b)) := by
  simp [after, exec, execPMkhint, readP_writeP]
/-- V-MUL-2. -/
theorem test_pPwmul (k : Fin 256) :
    (after (.pPwmul 3 1 2) ((State.reset.writeP 1 (constant 2365951)).writeP 2 (constant 3))).coeff 3 k =
      .written 4200959 := by
  rw [show after (.pPwmul 3 1 2) _ = polyBinary pwmul 3 1 2 _ from rfl, coeff_polyBinary, readP_writeP_same,
    readP_writeP_other _ (by decide), readP_writeP_same]
  simp [constant, pwmul]; decide
/-- V-MUL-3. -/
theorem test_pwacc (k : Fin 256) :
    (pwacc [constant 7167, constant 4200959] [constant 5, constant 7])[k.val] = 31 := by
  simp [pwacc, pwmul, constant]; decide
/-- V-MUL-3: the vectors are P4, P5 and P6, P7. -/
theorem test_pPwacc_registers : vectorRegs 4 2 = [4, 5] ∧ vectorRegs 6 2 = [6, 7] := by decide
/-- V-CTL-1. -/
theorem test_nop : (after .nop { State.reset with cmdcount := 5 }).cmdcount = 6 ∧
    (after .nop State.reset).done = true := by decide +kernel
/-- V-CTL-2. -/
theorem test_pZero (k : Fin 256) : (after (.pZero 9) State.reset).coeff 9 k = .written 0 := by
  rw [show after (.pZero 9) _ = complete (State.reset.writeP 9 (Vector.replicate 256 0)) from rfl, coeff_complete,
    coeff_writeP]
  simp
/-- V-CTL-3. -/
theorem test_pCopy (a : Lanes) (s : State) (k : Fin 256) :
    (after (.pCopy 5 2) (s.writeP 2 a)).coeff 5 k = .written a[k.val] := by
  rw [show after (.pCopy 5 2) _ = polyUnary id 5 2 _ from rfl, coeff_polyUnary]
  simp
/-- V-CTL-4. -/
theorem test_pCopy_unwritten : (after (.pCopy 5 2) State.reset).unwrittenUse = true := by decide +kernel

/-! ### ROMs (V-ZETA-1, V-ZETA-2, V-ZETA-4) -/

theorem test_zetas : ZETAS.take 9 = [0, 25847, 5771523, 7861508, 237124, 7602457, 7504169, 466468, 1826347] ∧
    ZETAS.length = 256 ∧ ZETAS.getD 255 0 = 1976782 := by decide +kernel
theorem test_zetas_inv : ZETAS_INV.take 2 = [6403635, 846154] ∧ ZETAS_INV.length = 255 ∧
    ZETAS_INV.getD 254 0 = 8354570 := by decide +kernel

/-! ### The host port -/

/-- V-HOST-1, V-HOST-2. -/
theorem test_read_id : (hostRead 0x0000 4 State.reset).lastRead = some 0x44514131 ∧
    (hostRead 0x0018 4 State.reset).lastRead = some 0x01002020 := by decide +kernel
/-- V-HOST-5, V-HOST-7, V-HOST-8. -/
theorem test_read_roms : (hostRead 0x07FC 4 State.reset).lastRead = some 1976782 ∧
    (hostRead 0x0BF8 4 State.reset).lastRead = some 8354570 ∧
    (hostRead 0x0BFC 4 State.reset).lastRead = some 0 := by decide +kernel
/-- V-HOST-11. -/
theorem test_read_misaligned : (hostRead 0x0002 4 State.reset).lastRead = some 0 ∧
    (hostRead 0x0002 4 State.reset).errcode = 6 ∧ (hostRead 0x0002 4 State.reset).errinfo = 2 := by decide +kernel
/-- V-HOST-13, V-HOST-15. -/
theorem test_read_busy : (hostRead 0x0104 4 busyState).errcode = 5 ∧
    (hostRead 0x0104 4 busyState).errinfo = 0x0104 ∧ (hostRead 0x8001 4 busyState).errcode = 6 := by decide +kernel
/-- Program A: two refused words and a misaligned read leave STATUS.ERR, EOVF and code 1 with the first word, beside
DONE of the commands before. -/
theorem test_error_sequence :
    let s := hostRead 0x0101 4 (hostWrite 0x0004 4 0x04410001 (hostWrite 0x0004 4 0x28000000
      { State.reset with done := true }))
    (hostRead 0x0008 4 s).lastRead = some 0x0000010E ∧ (hostRead 0x0010 4 s).lastRead = some 0x28000000 ∧
      (hostRead 0x0008 4 (hostWrite 0x0008 4 4 s)).lastRead = some 2 := by decide +kernel
/-- R16: reading an unwritten coefficient is recorded; after a write it is not. -/
theorem test_read_unwritten : (hostRead 0x8000 4 State.reset).unwrittenUse = true ∧
    (hostRead 0x8000 4 (hostWrite 0x8000 4 7 State.reset)).unwrittenUse = false := by decide +kernel

/-! ### Steps -/

/-- A word placed for the next step runs as the first command after reset (R27). -/
theorem test_step_runs_command :
    (stepped (State.reset.withFetchWord 32 0x0CA40000)).cmdcount = 1 ∧
      (stepped (State.reset.withFetchWord 32 0x0CA40000)).busy = false := by decide +kernel
/-- Two host events and the engine's turn, from reset: S1 is written, S.FREEZE s5, s1 is accepted, then performed. -/
theorem test_step_events :
    let s := stepped (stepped (stepped { State.reset with
      events := [.write 0x0104 4 0xFFFFFFFF, .write 0x0004 4 0x0CA10000, .engineTurn] }))
    s.readS 5 = 4193791 ∧ s.events = [] := by decide +kernel
/-- Program D, second outcome: the soft reset aborts P.NTT p1, p1. -/
theorem test_soft_reset_aborts :
    let s := hostWrite 0x000C 4 0x80000000 (accept 0x60210000 State.reset)
    (s.coeff 1 0) = .unwritten 1 ∧ (s.coeff 2 0) = .unwritten 0 ∧ s.busy = false := by decide +kernel

/-! ### Witnesses: for each statement with hypotheses, a case that meets them, at the ends of their ranges -/

/-- The reset state with P[r] written. -/
def withP (r : PReg) (p : Lanes) : State := State.reset.writeP r p

theorem coeffs_withP_constant (r : PReg) (w : Word) (k : Fin 256) : coeffs (withP r (constant w)) r k = w.toNat := by
  simp [coeffs, withP, constant, readCoeff_writeP]

/-- The command words end in six zeros (R49). -/
theorem encode_mod (i : Instr) : (encode i).toNat % 64 = 0 := by
  cases i <;> (rw [encode, packWord_toNat _ (by decide)]; omega)

theorem witness_DecodeInvertsEncode :
    (Instr.pPwacc 31 29 29 3).WellFormed ∧ (Instr.pPwacc 0 31 31 1).WellFormed ∧ (Instr.sP2r 0 31 31).WellFormed := by
  decide

theorem witness_ValidWordIsOneCommand : decode 0x184100C0 = .ok (.sP2r 2 1 3) ∧
    (∃ i, opcField (encode i) = opcField 0x04410001) ∧ ∀ i, encode i ≠ 0x04410001 := by
  refine ⟨by decide, ⟨.sRed32 2 1, by decide⟩, fun i h => ?_⟩
  have := encode_mod i
  rw [h] at this
  exact absurd this (by decide)

theorem witness_DecodeErrorsInOrder :
    Unassigned (opcField 0x28000000) ∧ Unassigned (opcField 0x3C000000) ∧ Unassigned (opcField 0x5C000000) ∧
    Unassigned (opcField 0x74000000) ∧ Unassigned (opcField 0x80000000) ∧ Unassigned (opcField 0xFC000000) ∧
    ¬ Unassigned (opcField 0x04410001) ∧ ¬ Unassigned (opcField 0x24000000) ∧ ¬ Unassigned (opcField 0x40000000) := by
  unfold Unassigned; decide

/-- A command for each of R54's conditions, and the last vector inside the file. -/
theorem witness_DecodeErrorsInOrder_operands :
    encode (.sP2r 2 2 2) = 0x18420080 ∧ encode (.sDecomp 31 0 31) = 0x1FE007C0 ∧
    encode (.pP2r 0 0 0) = 0x4C000000 ∧ encode (.pDecomp 5 1 5) = 0x50A10140 ∧ encode (.pPwacc 0 0 0 0) = 0x6C000000 ∧
    (encode (.pPwacc 0 30 0 3) = 0x6C1E00C0 ∧ 32 < (30 : PReg).val + (3 : Fin 32).val) ∧
    (encode (.pPwacc 0 0 30 3) = 0x6C00F0C0 ∧ 32 < (30 : PReg).val + (3 : Fin 32).val) ∧
    ¬ 32 < (29 : PReg).val + (3 : Fin 32).val := by decide

theorem witness_SCsubqResult :
    ((withS 16760833 0).readS 1).toNat < 2 * Q ∧
    (Q ≤ ((withS 2155864064 0).readS 1).toNat ∧ ((withS 2155864064 0).readS 1).toNat < Q + 2 ^ 31) ∧
    ¬ ((withS 2155864065 0).readS 1).toNat < Q + 2 ^ 31 := by decide +kernel

theorem witness_SMontResult :
    (let s := withS 0x007FE000 0xFF801FFF
     (s.readS 2).toNat * 2 ^ 32 + (s.readS 1).toNat = 2 ^ 64 - 1 - (2 ^ 32 - 1) * Q) ∧
    (let s := withS 0xFFFFFFFF 8380416
     (s.readS 2).toNat * 2 ^ 32 + (s.readS 1).toNat = Q * 2 ^ 32 - 1) := by decide +kernel

theorem witness_SMontmulResult :
    let s := withS 189719838 189719838
    (s.readS 1).toNat * (s.readS 2).toNat < Q * 2 ^ 32 ∧
      ((s.readS 1).toNat ≤ 189719838 ∧ (s.readS 2).toNat ≤ 189719838) ∧
      ((withS 8380416 0xFFFFFFFF).readS 1).toNat < Q := by decide +kernel

theorem witness_SP2rResult : (1 : SReg) ≠ 3 := by decide

theorem witness_SP2rDecomposesCanonical : (1 : SReg) ≠ 3 ∧ ((withS 8380416 0).readS 1).toNat < Q := by decide +kernel

theorem witness_SDecompResult : (2 : SReg) ≠ 3 := by decide

theorem witness_SDecompDecomposesCanonical : (2 : SReg) ≠ 3 ∧
    (((withS 8118529 0).readS 1).toNat < Q ∧
      (((withS 8118529 0).readS 1).toNat : Int) - cmod ((withS 8118529 0).readS 1).toNat ALPHA = Q - 1) ∧
    (((withS 8118528 0).readS 1).toNat < Q ∧
      (((withS 8118528 0).readS 1).toNat : Int) - cmod ((withS 8118528 0).readS 1).toNat ALPHA ≠ Q - 1) := by
  decide +kernel

theorem witness_HintRecoversHighBits : (3 : SReg) ≠ 1 ∧ ((withS 8380416 261888).readS 1).toNat < Q ∧
    ((withS 8380416 261888).readS 2).toNat < Q ∧ ((withS 8380416 261888).readS 2).toNat ≤ GAMMA2 ∧
    Q - GAMMA2 ≤ ((withS 0 8118529).readS 2).toNat ∧ ((withS 0 8118529).readS 2).toNat < Q := by decide +kernel

theorem witness_PolyReductionsLift : (withS 5 0).readS 1 = (withP 1 (constant 5)).readCoeff 1 255 := by
  rw [withP, readCoeff_writeP]; simp [constant]; decide +kernel

theorem witness_PolySplitsLift : (2 : PReg) ≠ 3 ∧ (2 : SReg) ≠ 3 ∧
    (withS 8193 0).readS 1 = (withP 1 (constant 8193)).readCoeff 1 0 := by
  rw [withP, readCoeff_writeP]; simp [constant]; decide +kernel

theorem witness_PolyUsehintLifts : let s := (withP 1 (constant 5)).writeP 2 (constant 7)
    (withS 5 7).readS 1 = s.readCoeff 1 9 ∧ (withS 5 7).readS 2 = s.readCoeff 2 9 := by
  simp only [withP, readCoeff_writeP]; simp [constant]; decide +kernel

theorem witness_PNttOutputBound : (∀ k, coeffs (withP 0 (constant 4160880623)) 0 k ≤ 2 ^ 32 - 16 * Q - 1) ∧
    2 ^ 32 - 16 * Q - 1 < 2 ^ 32 - 16 * Q :=
  ⟨fun k => by rw [coeffs_withP_constant]; decide, by decide⟩

theorem witness_PNttEvaluates : ∀ k, coeffs (withP 0 (constant 4160880623)) 0 k < 2 ^ 32 - 16 * Q :=
  fun k => by rw [coeffs_withP_constant]; decide

theorem witness_PInvnttInterpolates : ∀ k, coeffs (withP 0 (constant 16760833)) 0 k < 2 * Q :=
  fun k => by rw [coeffs_withP_constant]; decide

theorem witness_TransformRoundTrip : ∀ k, coeffs (withP 0 (constant 8380416)) 0 k < Q :=
  fun k => by rw [coeffs_withP_constant]; decide

theorem witness_PPwmulResult :
    ∀ k, coeffs (withP 1 (constant 189719838)) 1 k * coeffs (withP 1 (constant 189719838)) 1 k < Q * 2 ^ 32 :=
  fun k => by rw [coeffs_withP_constant]; decide

theorem witness_PPwaccResult : (Instr.pPwacc 31 29 0 3).WellFormed ∧ (Instr.pPwacc 0 0 1 31).WellFormed := by decide

theorem witness_PPwaccInnerProduct : (Instr.pPwacc 0 31 31 1).WellFormed ∧ ∀ j < 1, ∀ k,
    coeffs (withP 31 (constant 189719838)) (Fin.ofNat 32 (31 + j)) k *
      coeffs (withP 31 (constant 189719838)) (Fin.ofNat 32 (31 + j)) k < Q * 2 ^ 32 := by
  refine ⟨by decide, fun j hj k => ?_⟩
  obtain rfl : j = 0 := by omega
  rw [show Fin.ofNat 32 (31 + 0) = (31 : PReg) from rfl, coeffs_withP_constant]
  decide

theorem witness_PPolymulComposes : (4 : PReg) ≠ 2 ∧ (4 : PReg) ≠ 5 := by decide

theorem witness_PPolymulIsRingProduct : ∀ k, coeffs (withP 1 (constant 55633166)) 1 k ≤ 55633166 :=
  fun k => by rw [coeffs_withP_constant]; decide

theorem witness_EveryCommandCompletes :
    busyState.engine = .busy 0 ∧ decode 0 = .ok .nop ∧ State.reset.engine = .idle := by decide

/-- Both sides of the statement's equivalence occur: P.COPY consumes an unwritten coefficient, P.ZERO consumes none. -/
theorem witness_UnwrittenConsumptionRecorded : (State.reset.coeff 2 0).isUnwritten = true ∧ (2 : PReg) ∈ polySources (.pCopy 5 2) ∧
    State.reset.unwrittenUse = false ∧ polySources (.pZero 9) = [] := by decide +kernel

theorem witness_StepRunsLatchedCommand : decode 0x0CA40000 = .ok (.sFreeze 5 4) ∧
    (accept 0x0CA40000 State.reset).engine = .busy 0x0CA40000 ∧ (accept 0x0CA40000 State.reset).events = [] ∧
    (State.reset.withFetchWord 32 0x0CA40000).events = .engineTurn :: [] := by decide

/-- A busy state with an error recorded meets the invariant, and its step goes on. -/
theorem witness_InvariantKeptByStep :
    ({ busyState with err := true, errcode := 6 } : State).Inv ∧
      ∃ t, step { busyState with err := true, errcode := 6 } = .next t := by
  refine ⟨⟨⟨by decide, by decide⟩, ?_, fun h => absurd h (by decide)⟩, ⟨_, rfl⟩⟩
  intro v hv
  obtain rfl : (0 : Word) = v := Engine.busy.inj hv
  exact ⟨.nop, by decide⟩

/-- A state held in reset, with a host write pending, meets the invariant. -/
theorem witness_InvariantStepGoesOn :
    ({ State.reset with inReset := true, events := [.write 0x0004 4 0] } : State).Inv :=
  ⟨⟨by decide, by decide⟩, fun v hv => by simp [State.reset] at hv,
    fun _ => HasResetValues_outside (s := State.reset) ⟨rfl, rfl, rfl, rfl, by decide, rfl, rfl⟩ _ _⟩

theorem witness_CmdcountCountsCompletions :
    ((∃ t, step busyState = .next t) ∧ ¬ ResetsNext busyState ∧ EngineCompletes busyState) ∧
    (let s : State := { busyState with events := [.write 0x0004 4 0] }
     (∃ t, step s = .next t) ∧ ¬ ResetsNext s ∧ ¬ EngineCompletes s) := by
  refine ⟨⟨⟨_, rfl⟩, ?_, by simp [EngineCompletes, busyState, accept, State.reset]⟩, ⟨_, rfl⟩, ?_, ?_⟩
  · simp [ResetsNext, busyState, accept, State.reset]
  · simp [ResetsNext, IsSoftReset]
  · simp [EngineCompletes]

theorem witness_OnlyHostAccessesRaiseErrors :
    (∃ t, step { State.reset with events := [.read 0x0002 4] } = .next t ∧ t.err = true ∧ State.reset.err = false) ∧
    (∃ t, step { State.reset with err := true, errcode := 6, events := [.write 0x0000 1 0] } = .next t ∧
      t.eovf = true ∧ State.reset.eovf = false) := ⟨⟨_, rfl, by decide⟩, ⟨_, rfl, by decide⟩⟩

theorem witness_CommandAcceptance : busyState.busy = true ∧ State.reset.busy = false ∧
    decode 0x28000000 = .error .illegalOpcode ∧ decode 0 = .ok .nop := by decide

theorem witness_ErrorRecording : State.reset.err = false ∧ (raiseError .misaligned 2 State.reset).err = true := by decide

theorem witness_MisalignedAccessRefused : (2 : Nat) ≠ 4 ∧ ((0xFFFD : Addr).toNat % 4 ≠ 0) ∧
    ((0x0003 : Addr).toNat % 4 ≠ 0) := by decide

theorem witness_BusyAccessRefused : busyState.busy = true ∧
    ([0x0100, 0x017C, 0x8000, 0xFFFC] : List Addr).all (fun a =>
      a.toNat % 4 = 0 ∧ ((0x0100 ≤ a.toNat ∧ a.toNat ≤ 0x017F) ∨ 0x8000 ≤ a.toNat)) = true ∧
    ([0x0101, 0xFFFF] : List Addr).all (fun a => a.toNat % 4 ≠ 0) = true ∧
    ([0x0000, 0x0004, 0x0008, 0x00FC, 0x0180, 0x7FFC] : List Addr).all (fun a =>
      a.toNat % 4 = 0 ∧ ¬ ((0x0100 ≤ a.toNat ∧ a.toNat ≤ 0x017F) ∨ 0x8000 ≤ a.toNat)) = true := by decide +kernel

theorem witness_BusyHostCannotDisturb : busyState.busy = true ∧ ¬ IsSoftReset 0x000C 4 0x7FFFFFFF ∧
    ¬ IsSoftReset 0x000C 2 0x80000000 ∧ ¬ IsSoftReset 0x0100 4 0x80000000 := by
  unfold IsSoftReset; decide

theorem witness_ReadsHaveNoSideEffect :
    accessError 0xFFFC 4 State.reset = none ∧ accessError 0x0008 4 busyState = none := by decide

theorem witness_ScalarRegisterPort : State.reset.busy = false ∧ (31 : SReg) ≠ 0 ∧ (0 : SReg) ≠ 31 := by decide

theorem witness_CoefficientPort : State.reset.busy = false ∧ ((31 : PReg), (255 : Fin 256)) ≠ (31, 254) ∧
    ((0 : PReg), (0 : Fin 256)) ≠ (1, 0) := by decide

theorem witness_TwiddleRomPort : 255 < 256 ∧ 254 < 255 ∧ (7 < 8 ∧ 0 < 128 / 2 ^ 7) ∧ (0 < 8 ∧ 127 < 128 / 2 ^ 0) ∧
    ([0x0400, 0x07FC, 0x0800, 0x0BFC] : List Addr).all (fun a =>
      a.toNat % 4 = 0 ∧ 0x0400 ≤ a.toNat ∧ a.toNat ≤ 0x0BFF) = true := by decide +kernel

theorem witness_UnmappedAddressesInert :
    ([0x001C, 0x00FC, 0x0180, 0x03FC, 0x0C00, 0x7FFC] : List Addr).all (fun a => a.toNat % 4 = 0 ∧
      ((0x001C ≤ a.toNat ∧ a.toNat < 0x0100) ∨ (0x0180 ≤ a.toNat ∧ a.toNat < 0x0400) ∨
        (0x0C00 ≤ a.toNat ∧ a.toNat < 0x8000))) = true := by decide +kernel

/-- For each clause about a step: a step without a reset that clears the bit and, where both its bit and its enable were
1, irq. -/
theorem witness_CtrlAndInterrupt : (0x7FFFFFFF : Word).getLsbD 31 = false ∧ (0x80000000 : Word).getLsbD 31 = true ∧
    irq { State.reset with done := true, ieDone := true } = true ∧
    (let s : State := { State.reset with done := true, ieDone := true, events := [.write 0x0008 4 2] }
     ¬ ResetsNext s ∧ irq s = true ∧ ∃ t, step s = .next t ∧ t.done = false ∧ irq t = false) ∧
    (let s : State := { State.reset with err := true, errcode := 6, ieErr := true, events := [.write 0x0008 4 4] }
     ¬ ResetsNext s ∧ irq s = true ∧ ∃ t, step s = .next t ∧ t.err = false ∧ irq t = false) ∧
    (let s : State := { State.reset with done := true, ieDone := true, events := [.write 0x000C 4 2] }
     ¬ ResetsNext s ∧ irq s = true ∧ ∃ t, step s = .next t ∧ t.ieDone = false ∧ irq t = false) ∧
    (let s : State := { State.reset with err := true, errcode := 6, ieErr := true, events := [.write 0x000C 4 1] }
     ¬ ResetsNext s ∧ irq s = true ∧ ∃ t, step s = .next t ∧ t.ieErr = false ∧ irq t = false) := by
  refine ⟨by decide, by decide, by decide, ?_, ?_, ?_, ?_⟩ <;>
    exact ⟨by simp [ResetsNext, IsSoftReset], by decide, _, rfl, by decide, by decide⟩

theorem witness_SoftResetEffect : (0x80000000 : Word).getLsbD 31 = true ∧ State.reset.engine = .idle ∧
    (accept 0x60210000 State.reset).engine = .busy 0x60210000 ∧ decode 0x60210000 = .ok (.pNtt 1 1) ∧
    (1 : PReg) ∈ polyDestinations (.pNtt 1 1) ∧ (2 : PReg) ∉ polyDestinations (.pNtt 1 1) ∧
    (accept 0x4C4100C0 State.reset).engine = .busy 0x4C4100C0 ∧ decode 0x4C4100C0 = .ok (.pP2r 2 1 3) ∧
    (2 : PReg) ∈ polyDestinations (.pP2r 2 1 3) ∧ (3 : PReg) ∈ polyDestinations (.pP2r 2 1 3) ∧
    (1 : PReg) ∉ polyDestinations (.pP2r 2 1 3) := by decide

theorem witness_HardResetAndPowerCycle :
    ({ busyState with events := [.assertReset] } : State).events = .assertReset :: [] ∧
    (({ State.reset with inReset := true, events := [.read 0x0008 4] } : State).inReset = true ∧
      ({ State.reset with inReset := true, events := [.read 0x0008 4] } : State).events = .read 0x0008 4 :: []) ∧
    (({ State.reset with inReset := true, events := [.releaseReset] } : State).events = .releaseReset :: [] ∧
      ({ State.reset with inReset := true, events := [.releaseReset] } : State).inReset = true ∧
      ({ State.reset with inReset := true, events := [.releaseReset] } : State).Inv) ∧
    ({ busyState with events := [.powerCycle] } : State).events = .powerCycle :: [] := by
  refine ⟨by decide, by decide, ⟨by decide, by decide, ⟨by decide, by decide⟩, fun v hv => by simp [State.reset] at hv,
    fun _ => HasResetValues_outside (s := State.reset) ⟨rfl, rfl, rfl, rfl, by decide, rfl, rfl⟩ _ _⟩, by decide⟩

/-! ### Whole transforms and a whole hint polynomial (last, since they take the kernel longest) -/

/-- V-HCMD-3, V-HCMD-5: five hints, and the count added to 10 and to 0xFFFFFFFF. -/
theorem test_pMkhint_count :
    hintCount (zipLanes hint (constant 261888) (poly [1, 1, 1, 1, 1])) = 5 ∧
      wrap32 ((10 : Int) + 5) = 15 ∧ wrap32 ((0xFFFFFFFF : Int) + 5) = 4 := by decide +kernel

/-- V-NTT-3. -/
theorem test_ntt_x : (ntt (poly [0, 1])).toList.take 8 =
    [1753, 16759081, 23205831, 27076671, 30862143, 36181193, 32065778, 34977558] := by decide +kernel

/-- V-INTT-1. -/
theorem test_intt_ones : (intt (poly (List.replicate 256 1))).toList = 4193792 :: List.replicate 255 8380417 := by
  decide +kernel

/-- V-MUL-7: X · X^255 = −1. -/
theorem test_polymul_negacyclic :
    (polymul (poly [0, 1]) (poly (List.replicate 255 0 ++ [1]))).toList = 8380416 :: List.replicate 255 0 := by
  decide +kernel

end Sys2Proof.Tests
end

/-! PROOFS. Lane lifting (00_scope.md R11): the frame of a polynomial command, coefficient reads after each operand form,
and the lifting of a scalar function, proved once for each operand form. -/

namespace Sys2Proof.Proofs

open Sys2Proof.Machine Sys2Proof.SpecMath

/-! ### Coefficient reads after an operand form -/

theorem readCoeff_polyUnary (g : Lanes → Lanes) (rd rs1 q : PReg) (s : State) (k : Fin 256) :
    (polyUnary g rd rs1 s).readCoeff q k = if q = rd then (g (s.readP rs1))[k.val] else s.readCoeff q k := by
  simp only [polyUnary, readCoeff_complete, readCoeff_writeP, readCoeff_consume]

theorem readCoeff_polyBinary (g : Lanes → Lanes → Lanes) (rd rs1 rs2 q : PReg) (s : State) (k : Fin 256) :
    (polyBinary g rd rs1 rs2 s).readCoeff q k =
      if q = rd then (g (s.readP rs1) (s.readP rs2))[k.val] else s.readCoeff q k := by
  simp only [polyBinary, readCoeff_complete, readCoeff_writeP, readCoeff_consume]

theorem readCoeff_polySplit (f : Word → Word × Word) (rd rs1 re q : PReg) (s : State) (k : Fin 256) :
    (polySplit f rd rs1 re s).readCoeff q k =
      if q = re then (f (s.readCoeff rs1 k)).2
      else if q = rd then (f (s.readCoeff rs1 k)).1 else s.readCoeff q k := by
  simp [polySplit, readCoeff_writeP]

/-! ### The frame of a polynomial command -/

/-- A command that writes known words to P[rd], and nothing else to S and P, has the frame of one destination. -/
theorem polyFrame_of_coeff {i : Instr} {s t : State} {rd : PReg} {w : Fin 256 → Word} (h : exec i s = .next t)
    (hS : ∀ j, t.readS j = s.readS j)
    (hP : ∀ q k, t.coeff q k = if q = rd then .written (w k) else s.coeff q k) : PolyFrame [rd] [] s t := by
  refine ⟨exec_next h, fun j _ => hS j, fun q hq k => ?_, fun q hq k => ?_⟩
  · rw [hP, if_neg (List.mem_singleton.not.mp hq)]
  · rw [hP, if_pos (List.mem_singleton.mp hq), Coeff.isUnwritten]

theorem polyFrame_polySplit {i : Instr} {s : State} {f : Word → Word × Word} {rd rs1 re : PReg}
    (h : exec i s = .next (polySplit f rd rs1 re s)) : PolyFrame [rd, re] [] s (polySplit f rd rs1 re s) := by
  refine ⟨exec_next h, fun j _ => readS_polySplit s f rd rs1 re j, fun q hq k => ?_, fun q hq k => ?_⟩
  · obtain ⟨hrd, hre⟩ : q ≠ rd ∧ q ≠ re := by simpa using hq
    rw [coeff_polySplit, if_neg hre, if_neg hrd]
  · rw [coeff_polySplit]
    obtain rfl | rfl : q = rd ∨ q = re := by simpa using hq
    · split
      · rfl
      · rw [if_pos rfl, Coeff.isUnwritten]
    · rw [if_pos rfl, Coeff.isUnwritten]

/-! ### Lifting, once for each operand form -/

theorem liftsUnary_mapLanes {p : PReg → PReg → Instr} {c : SReg → SReg → Instr} (f : Word → Word)
    (hp : ∀ rd rs1 s, exec (p rd rs1) s = .next (polyUnary (mapLanes f) rd rs1 s))
    (hc : ∀ rd rs1 s, exec (c rd rs1) s = .next (scalarUnary f rd rs1 s)) : LiftsUnary p c := by
  intro rd rs1 s
  refine ⟨_, hp rd rs1 s, polyFrame_of_coeff (hp rd rs1 s) (fun _ => rfl) (coeff_polyUnary s _ rd rs1), ?_⟩
  intro k x y u hy
  refine ⟨_, hc x y u, ?_⟩
  rw [readCoeff_polyUnary, if_pos rfl, getElem_mapLanes, getElem_readP, readS_scalarUnary, if_pos rfl, hy]

theorem liftsBinary_zipLanes {p : PReg → PReg → PReg → Instr} {c : SReg → SReg → SReg → Instr}
    (f : Word → Word → Word)
    (hp : ∀ rd rs1 rs2 s, exec (p rd rs1 rs2) s = .next (polyBinary (zipLanes f) rd rs1 rs2 s))
    (hc : ∀ rd rs1 rs2 s, exec (c rd rs1 rs2) s = .next (scalarBinary f rd rs1 rs2 s)) : LiftsBinary p c := by
  intro rd rs1 rs2 s
  refine ⟨_, hp rd rs1 rs2 s,
    polyFrame_of_coeff (hp rd rs1 rs2 s) (fun _ => rfl) (coeff_polyBinary s _ rd rs1 rs2), ?_⟩
  intro k x y z u hy hz
  refine ⟨_, hc x y z u, ?_⟩
  rw [readCoeff_polyBinary, if_pos rfl, getElem_zipLanes, getElem_readP, getElem_readP, readS_scalarBinary, if_pos rfl,
    hy, hz]

theorem liftsSplit_polySplit {p : PReg → PReg → PReg → Instr} {c : SReg → SReg → SReg → Instr}
    (f : Word → Word × Word)
    (hp : ∀ rd rs1 re s, exec (p rd rs1 re) s = .next (polySplit f rd rs1 re s))
    (hc : ∀ rd rs1 re s, exec (c rd rs1 re) s = .next (scalarSplit f rd rs1 re s)) : LiftsSplit p c := by
  intro rd rs1 re s hne
  refine ⟨_, hp rd rs1 re s, polyFrame_polySplit (hp rd rs1 re s), ?_⟩
  intro k x y z u hxz hy
  refine ⟨_, hc x y z u, ?_, ?_⟩
  · rw [readCoeff_polySplit, if_neg hne, if_pos rfl, readS_scalarSplit, if_neg hxz, if_pos rfl, hy]
  · rw [readCoeff_polySplit, if_pos rfl, readS_scalarSplit, if_pos rfl, hy]

/-! ### The statements -/

/-- Settles O17: RED32, CSUBQ and FREEZE are each one function, mapped over the lanes by the polynomial command. -/
theorem polyReductionsLift : Obligations.PolyReductionsLift :=
  ⟨liftsUnary_mapLanes red32 (fun _ _ _ => rfl) (fun _ _ _ => rfl),
    liftsUnary_mapLanes csubq (fun _ _ _ => rfl) (fun _ _ _ => rfl),
    liftsUnary_mapLanes freeze (fun _ _ _ => rfl) (fun _ _ _ => rfl)⟩

/-- Settles O18: P2R and DECOMP are each one function to two words, whose two halves go to the two destinations. -/
theorem polySplitsLift : Obligations.PolySplitsLift :=
  ⟨liftsSplit_polySplit p2r (fun _ _ _ _ => rfl) (fun _ _ _ _ => rfl),
    liftsSplit_polySplit decomp (fun _ _ _ _ => rfl) (fun _ _ _ _ => rfl)⟩

/-- Settles O19: USEHINT is one function of two words, zipped over the lanes by the polynomial command. -/
theorem polyUsehintLifts : Obligations.PolyUsehintLifts :=
  liftsBinary_zipLanes useHint (fun _ _ _ _ => rfl) (fun _ _ _ _ => rfl)

/-! ### The constants of 00_scope.md R5 and 42_ntt.md R88 -/

/-- Settles O60: closed facts about the numbers of R5 and R88, each evaluated. -/
theorem constantsFollowFormulas : Obligations.ConstantsFollowFormulas := by
  refine ⟨?_, ?_, ?_, ?_, ?_, ?_, ?_, ?_⟩ <;> decide

end Sys2Proof.Proofs

/-! PROOFS. The state of DQA (10_state.md): the engine's step, the fault record, the invariant, CMDCOUNT, the interrupt
output and the control registers at the port. -/

namespace Sys2Proof.Proofs

open Sys2Proof.Machine Sys2Proof.SpecMath

/-! ### The engine's step (10_state.md R27) -/

theorem engineStep_idle {s : State} (h : s.engine = .idle) : engineStep s = .next s := by simp only [engineStep, h]

theorem engineStep_busy {s : State} {v : Word} {i : Instr} (hb : s.engine = .busy v) (hd : decode v = .ok i) :
    engineStep s = exec i s := by simp only [engineStep, hb, hd]

/-- Settles O35: a busy engine's step is `exec`, and every command completes. -/
theorem everyCommandCompletes : Obligations.EveryCommandCompletes := by
  refine ⟨fun s v i hb hd => ?_, fun s h => engineStep_idle h⟩
  obtain ⟨t, ht, hc⟩ := exec_completes i s
  exact ⟨t, (engineStep_busy hb hd).trans ht, ht, hc⟩

theorem step_of_no_event {s : State} (h : s.events = []) : step s = engineStep s := by simp only [step, stepOnce, h]

/-- Placing a word puts the engine's turn first, so the next step is the engine's, in the state that holds the word. -/
theorem step_withFetchWord (s : State) (v : Word) :
    step (s.withFetchWord 32 v.toNat) = engineStep { s with engine := .busy v } := by
  have hw : BitVec.ofNat 32 (v.toNat % 2 ^ 32) = v := by
    rw [Nat.mod_eq_of_lt v.isLt, BitVec.ofNat_toNat, BitVec.setWidth_eq]
  rw [State.withFetchWord, hw, step_of_event (s := latchCommand v s) rfl]
  rfl

/-- Settles O37: each of the three steps is the engine's step with `v` in CLATCH. -/
theorem stepRunsLatchedCommand : Obligations.StepRunsLatchedCommand := by
  intro s v i hd
  refine ⟨fun hb he => ?_, fun hb rest he => ?_, ?_⟩
  · rw [step_of_no_event he, engineStep_busy hb hd]
  · rw [step_of_event he]
    exact engineStep_busy hb hd
  · rw [step_withFetchWord, engineStep_busy rfl hd]

/-! ### The fault record of a command (10_state.md R16) -/

theorem unwrittenUse_consume_nil (s : State) : (s.consume []).unwrittenUse = s.unwrittenUse := by simp [State.consume]

/-- A command's fault record is that of consuming the registers `polySources` lists: a scalar command, NOP and P.ZERO
consume none. -/
theorem exec_unwrittenUse (i : Instr) (s : State) :
    ∃ t, exec i s = .next t ∧ t.unwrittenUse = (s.consume (polySources i)).unwrittenUse := by
  cases i with
  | nop | sRed32 | sCsubq | sFreeze | sMont | sMontmul | sP2r | sDecomp | sMkhint | sUsehint | pZero =>
    exact ⟨_, rfl, (unwrittenUse_consume_nil s).symm⟩
  | _ => exact ⟨_, rfl, rfl⟩

/-- Settles O36: the fault record of a command is that of consuming its sources. -/
theorem unwrittenConsumptionRecorded : Obligations.UnwrittenConsumptionRecorded := by
  intro i s
  obtain ⟨t, ht, hu⟩ := exec_unwrittenUse i s
  exact ⟨t, ht, by rw [hu, unwrittenUse_consume]⟩

/-! ### What keeps each clause of the invariant -/

theorem LatchDecodes_of_idle {s : State} (h : s.engine = .idle) : s.LatchDecodes := by
  intro v hv
  rw [h] at hv
  cases hv

theorem LatchDecodes_congr {s t : State} (he : t.engine = s.engine) (h : s.LatchDecodes) : t.LatchDecodes := by
  simpa only [State.LatchDecodes, he] using h

/-- A host write to STATUS as one equation: bit 1 clears DONE, bit 2 clears the error fields (R107). -/
theorem writeStatus_eq (v : Word) (s : State) :
    writeStatus v s =
      { s with
        done := s.done && !v.getLsbD 1
        err := s.err && !v.getLsbD 2
        eovf := s.eovf && !v.getLsbD 2
        errcode := if v.getLsbD 2 then 0 else s.errcode
        errinfo := if v.getLsbD 2 then 0 else s.errinfo } := by
  unfold writeStatus
  cases v.getLsbD 1 <;> cases v.getLsbD 2 <;> simp [clearDone, clearError]

theorem writeStatus_keeps_ErrorFieldsAgree (v : Word) {s : State} (h : s.ErrorFieldsAgree) :
    (writeStatus v s).ErrorFieldsAgree := by
  unfold writeStatus
  split <;> split
  · exact clearError_ErrorFieldsAgree _
  · exact ErrorFieldsAgree_congr rfl rfl rfl rfl h
  · exact clearError_ErrorFieldsAgree _
  · exact h

theorem writeCtrl_keeps_ErrorFieldsAgree (v : Word) {s : State} (h : s.ErrorFieldsAgree) :
    (writeCtrl v s).ErrorFieldsAgree := by
  unfold writeCtrl
  split
  · exact resetBlock_ErrorFieldsAgree s
  · exact ErrorFieldsAgree_congr rfl rfl rfl rfl h

/-- Only CMD, STATUS and CTRL touch the error fields. -/
theorem writeTarget_keeps_ErrorFieldsAgree (v : Word) {s : State} (x : Target) (h : s.ErrorFieldsAgree) :
    (writeTarget v s x).ErrorFieldsAgree := by
  cases x with
  | cmd =>
    obtain ⟨e, he⟩ | ⟨-, -, he⟩ := writeCmd_cases v s <;> simp only [writeTarget, he]
    · exact raiseError_keeps_ErrorFieldsAgree e v h
    · exact ErrorFieldsAgree_congr rfl rfl rfl rfl h
  | status => exact writeStatus_keeps_ErrorFieldsAgree v h
  | ctrl => exact writeCtrl_keeps_ErrorFieldsAgree v h
  | _ => exact ErrorFieldsAgree_congr rfl rfl rfl rfl h

/-- CMD latches a word only if it decodes (R26), a soft reset leaves the engine idle, and no other write moves it. -/
theorem writeTarget_keeps_LatchDecodes (v : Word) {s : State} (x : Target) (h : s.LatchDecodes) :
    (writeTarget v s x).LatchDecodes := by
  cases x with
  | cmd =>
    obtain ⟨e, he⟩ | ⟨-, hd, he⟩ := writeCmd_cases v s <;> simp only [writeTarget, he]
    · exact LatchDecodes_congr (raiseError_engine s e v) h
    · rintro w hw
      obtain rfl : v = w := Engine.busy.inj hw
      exact hd
  | status => exact LatchDecodes_congr (by rw [writeTarget, writeStatus_eq]) h
  | ctrl =>
    simp only [writeTarget, writeCtrl]
    split
    · exact LatchDecodes_of_idle (resetBlock_engine s)
    · exact LatchDecodes_congr rfl h
  | _ => exact LatchDecodes_congr rfl h

/-! ### The invariant along a step -/

theorem Inv_with_events {s : State} (h : s.Inv) (es : List Event) : ({ s with events := es } : State).Inv :=
  ⟨h.errorFields, h.latch, fun hr => HasResetValues_outside (h.resetValues hr) es s.inReset⟩

/-- With rst_n low the engine is idle, so a busy engine means that rst_n is high. -/
theorem released_of_busy {s : State} {v : Word} (h : s.Inv) (hb : s.engine = .busy v) : s.inReset = false := by
  rw [← Bool.not_eq_true]
  intro hr
  have hidle := (h.resetValues hr).engine
  rw [hb] at hidle
  cases hidle

theorem CompletedFrom_keeps_inv {s t : State} (h : s.Inv) (hr : s.inReset = false) (hc : CompletedFrom s t) : t.Inv where
  errorFields := ErrorFieldsAgree_congr hc.err hc.eovf hc.errcode hc.errinfo h.errorFields
  latch := LatchDecodes_of_idle hc.engine
  resetValues := ResetHoldsValues_of_released (hc.inReset.trans hr)

theorem engineStep_keeps_inv {s t : State} (h : s.Inv) (hs : engineStep s = .next t) : t.Inv := by
  obtain ⟨-, rfl⟩ | ⟨v, i, hb, -, hx⟩ := engineStep_next hs
  · exact h
  · exact CompletedFrom_keeps_inv h (released_of_busy h hb) (exec_next hx)

theorem hostWrite_keeps_inv {s : State} (h : s.Inv) (hr : s.inReset = false) (a : Addr) (size : Nat) (v : Word) :
    (hostWrite a size v s).Inv := by
  refine ⟨?_, ?_, ResetHoldsValues_of_released (by simp [hr])⟩
    <;> obtain ⟨e, -, he⟩ | ⟨-, he⟩ := hostWrite_cases a size v s <;> rw [he]
  · exact raiseError_keeps_ErrorFieldsAgree e _ h.errorFields
  · exact writeTarget_keeps_ErrorFieldsAgree v _ h.errorFields
  · exact LatchDecodes_congr (raiseError_engine s e _) h.latch
  · exact writeTarget_keeps_LatchDecodes v _ h.latch

theorem hostRead_keeps_inv {s : State} (h : s.Inv) (hr : s.inReset = false) (a : Addr) (size : Nat) :
    (hostRead a size s).Inv := by
  refine ⟨?_, ?_, ResetHoldsValues_of_released (by simp [hr])⟩
    <;> obtain ⟨e, -, he⟩ | ⟨-, he⟩ := hostRead_cases a size s <;> rw [he]
  · exact raiseError_keeps_ErrorFieldsAgree e (a.setWidth 32) h.errorFields
  · exact h.errorFields
  · exact LatchDecodes_congr (raiseError_engine s e (a.setWidth 32)) h.latch
  · exact h.latch

/-- A state in which every register has its reset value meets the invariant, if its error fields agree. -/
theorem Inv_of_HasResetValues {s : State} (hE : s.ErrorFieldsAgree) (h : s.HasResetValues) : s.Inv :=
  ⟨hE, LatchDecodes_of_idle h.engine, fun _ => h⟩

theorem eventStep_keeps_inv {s t : State} (e : Event) (h : s.Inv) (hs : eventStep e s = .next t) : t.Inv := by
  cases e with
  | engineTurn => exact engineStep_keeps_inv h hs
  | read a size =>
    cases hs
    split
    · exact h
    · next hr => exact hostRead_keeps_inv h (Bool.eq_false_of_not_eq_true hr) a size
  | write a size v =>
    cases hs
    split
    · exact h
    · next hr => exact hostWrite_keeps_inv h (Bool.eq_false_of_not_eq_true hr) a size v
  | assertReset =>
    cases hs
    exact Inv_of_HasResetValues (resetBlock_ErrorFieldsAgree s)
      (HasResetValues_outside (resetBlock_HasResetValues s) (resetBlock s).events true)
  | releaseReset =>
    cases hs
    exact ⟨h.errorFields, h.latch, ResetHoldsValues_of_released rfl⟩
  | powerCycle =>
    cases hs
    exact Inv_of_HasResetValues (resetRegisters_ErrorFieldsAgree _) (powerCycle_HasResetValues s)

/-- Settles O39: the engine's step and each kind of event keep the invariant. -/
theorem invariantKeptByStep : Obligations.InvariantKeptByStep := by
  intro s t h hs
  obtain ⟨-, hs⟩ | ⟨e, rest, -, hs⟩ := step_next hs
  · exact engineStep_keeps_inv h hs
  · exact eventStep_keeps_inv e (Inv_with_events h rest) hs

/-- A latched word that decodes is all the engine's step needs to go on (R27). -/
theorem engineStep_goes_on {s : State} (h : s.LatchDecodes) : ∃ t, engineStep s = .next t := by
  cases he : s.engine with
  | idle => exact ⟨s, engineStep_idle he⟩
  | busy v =>
    obtain ⟨i, hd⟩ := h v he
    obtain ⟨t, ht, -⟩ := exec_completes i s
    exact ⟨t, (engineStep_busy he hd).trans ht⟩

theorem eventStep_goes_on {s : State} (e : Event) (h : s.LatchDecodes) : ∃ t, eventStep e s = .next t := by
  cases e with
  | engineTurn => exact engineStep_goes_on h
  | _ => exact ⟨_, rfl⟩

theorem step_goes_on {s : State} (h : s.LatchDecodes) : ∃ t, step s = .next t := by
  cases he : s.events with
  | nil =>
    rw [step_of_no_event he]
    exact engineStep_goes_on h
  | cons e rest =>
    rw [step_of_event he]
    exact eventStep_goes_on e (LatchDecodes_congr rfl h)

/-- Settles O40: the invariant's latched word decodes, so the step goes on, and it keeps the invariant. -/
theorem invariantStepGoesOn : Obligations.InvariantStepGoesOn := by
  intro s h
  obtain ⟨t, ht⟩ := step_goes_on h.latch
  exact ⟨t, ht, invariantKeptByStep s t h ht⟩

/-! ### What a step without a reset can do -/

/-- The ways a step goes from `s` to `t` when the next event is no reset: the engine completes a command, nothing but
the event list and the level of rst_n moves, or one host access with the port open. -/
inductive StepWithoutReset (s t : State) : Prop where
  | completes (es : List Event) (he : EngineCompletes s) (hc : CompletedFrom { s with events := es } t)
  | quiet (es : List Event) (low : Bool) (he : ¬ EngineCompletes s) (ht : t = { s with events := es, inReset := low })
  | read (a : Addr) (size : Nat) (rest : List Event) (he : ¬ EngineCompletes s)
      (ht : t = hostRead a size { s with events := rest })
  | write (a : Addr) (size : Nat) (v : Word) (rest : List Event) (he : ¬ EngineCompletes s) (hr : s.inReset = false)
      (hev : s.events = .write a size v :: rest) (hsoft : ¬ IsSoftReset a size v)
      (ht : t = hostWrite a size v { s with events := rest })

/-- The engine's turn, whether it comes from the event list or from its being empty. -/
theorem stepWithoutReset_of_engineStep {s t : State} {es : List Event}
    (hev : s.events = [] ∨ ∃ rest, s.events = .engineTurn :: rest)
    (h : engineStep { s with events := es } = .next t) : StepWithoutReset s t := by
  obtain ⟨hidle, rfl⟩ | ⟨v, i, hb, -, hx⟩ := engineStep_next h
  · exact .quiet es s.inReset (fun he => he.1 hidle) rfl
  · have hbusy : s.engine = .busy v := hb
    exact .completes es ⟨by rw [hbusy]; exact Engine.noConfusion, hev⟩ (exec_next hx)

theorem not_engineCompletes_of_event {s : State} {e : Event} {rest : List Event} (hev : s.events = e :: rest)
    (hne : e ≠ .engineTurn) : ¬ EngineCompletes s := by
  rintro ⟨-, hnil | ⟨_, hturn⟩⟩
  · rw [hev] at hnil
    cases hnil
  · rw [hev] at hturn
    exact hne (List.cons.inj hturn).1

theorem stepWithoutReset_of_step {s t : State} (h : step s = .next t) (hr : ¬ ResetsNext s) : StepWithoutReset s t := by
  obtain ⟨hnil, hs⟩ | ⟨e, rest, hev, hs⟩ := step_next h
  · exact stepWithoutReset_of_engineStep (es := s.events) (.inl hnil) hs
  cases e with
  | engineTurn => exact stepWithoutReset_of_engineStep (.inr ⟨rest, hev⟩) hs
  | read a size =>
    have hnc := not_engineCompletes_of_event hev (by simp)
    cases hs
    split
    · exact .quiet rest s.inReset hnc rfl
    · exact .read a size rest hnc rfl
  | write a size v =>
    have hnc := not_engineCompletes_of_event hev (by simp)
    cases hs
    split
    · exact .quiet rest s.inReset hnc rfl
    · next hlow =>
      have hopen : s.inReset = false := Bool.eq_false_of_not_eq_true hlow
      exact .write a size v rest hnc hopen hev
        (fun hsoft => hr ⟨_, rest, hev, .inr (.inr ⟨hopen, a, size, v, rfl, hsoft⟩)⟩) rfl
  | releaseReset =>
    cases hs
    exact .quiet rest false (not_engineCompletes_of_event hev (by simp)) rfl
  | assertReset => exact absurd ⟨_, rest, hev, .inl rfl⟩ hr
  | powerCycle => exact absurd ⟨_, rest, hev, .inr (.inl rfl)⟩ hr

/-! ### Host accesses other than the soft reset -/

/-- An access without an error has the size of a word (R35). -/
theorem size_of_accessError_none {a : Addr} {size : Nat} {s : State} (h : accessError a size s = none) : size = 4 := by
  by_contra hne
  simp [accessError, hne] at h

/-- CTRL is written with SRST clear when the write is no soft reset (R18). -/
theorem writeCtrl_of_not_softReset {a : Addr} {size : Nat} {v : Word} {s : State} (hx : target a = .ctrl)
    (hn : accessError a size s = none) (hsoft : ¬ IsSoftReset a size v) :
    writeCtrl v s = { s with ieDone := v.getLsbD 0, ieErr := v.getLsbD 1 } := by
  have hbit : ¬ v.getLsbD 31 = true := fun hb => hsoft ⟨target_eq_ctrl hx, size_of_accessError_none hn, hb⟩
  rw [writeCtrl, if_neg hbit]

theorem hostRead_cmdcount (a : Addr) (size : Nat) (s : State) : (hostRead a size s).cmdcount = s.cmdcount := by
  obtain ⟨e, -, he⟩ | ⟨-, he⟩ := hostRead_cases a size s <;> rw [he]
  exact raiseError_cmdcount s e (a.setWidth 32)

theorem hostWrite_cmdcount {a : Addr} {size : Nat} {v : Word} (s : State) (hsoft : ¬ IsSoftReset a size v) :
    (hostWrite a size v s).cmdcount = s.cmdcount := by
  obtain ⟨e, -, he⟩ | ⟨hn, he⟩ := hostWrite_cases a size v s <;> rw [he]
  · exact raiseError_cmdcount s e (a.setWidth 32)
  cases hx : target a with
  | cmd => obtain ⟨e, he⟩ | ⟨-, -, he⟩ := writeCmd_cases v s <;> simp [writeTarget, he]
  | status => rw [writeTarget, writeStatus_eq]
  | ctrl => rw [writeTarget, writeCtrl_of_not_softReset hx hn hsoft]
  | _ => rfl

/-- Settles O41: of the ways a step goes without a reset, only the engine's completion counts. -/
theorem cmdcountCountsCompletions : Obligations.CmdcountCountsCompletions := by
  intro s t hs hr
  cases stepWithoutReset_of_step hs hr with
  | completes es he hc => exact ⟨fun _ => ⟨hc.cmdcount, hc.done, hc.engine⟩, fun hn => absurd he hn⟩
  | quiet es low he ht => exact ⟨fun h => absurd h he, fun _ => by rw [ht]⟩
  | read a size rest he ht => exact ⟨fun h => absurd h he, fun _ => by rw [ht, hostRead_cmdcount]⟩
  | write a size v rest he _ _ hsoft ht =>
    exact ⟨fun h => absurd h he, fun _ => by rw [ht, hostWrite_cmdcount _ hsoft]⟩

/-! ### The four bits of the interrupt output (10_state.md R29) -/

/-- From `s` to `t` none of DONE, ERR, IE_DONE and IE_ERR falls. -/
structure KeepsInterruptBits (s t : State) : Prop where
  done : s.done = true → t.done = true
  err : s.err = true → t.err = true
  ieDone : s.ieDone = true → t.ieDone = true
  ieErr : s.ieErr = true → t.ieErr = true

theorem raiseError_keeps_interruptBits (e : ErrCode) (info : Word) (s : State) :
    KeepsInterruptBits s (raiseError e info s) where
  done := by simp
  err := by simp
  ieDone := by simp
  ieErr := by simp

theorem hostRead_keeps_interruptBits (a : Addr) (size : Nat) (s : State) :
    KeepsInterruptBits s (hostRead a size s) := by
  obtain ⟨e, -, he⟩ | ⟨-, he⟩ := hostRead_cases a size s <;> rw [he]
  · obtain ⟨hdone, herr, hieDone, hieErr⟩ := raiseError_keeps_interruptBits e (a.setWidth 32) s
    exact ⟨hdone, herr, hieDone, hieErr⟩
  · exact ⟨id, id, id, id⟩

/-- A host write that is no soft reset writes STATUS, sets the enables, or clears none of the four bits. -/
theorem hostWrite_interruptBits {a : Addr} {size : Nat} {v : Word} (s : State) (hsoft : ¬ IsSoftReset a size v) :
    (a = 0x0008 ∧ size = 4 ∧ hostWrite a size v s = writeStatus v s) ∨
    (a = 0x000C ∧ size = 4 ∧ hostWrite a size v s = { s with ieDone := v.getLsbD 0, ieErr := v.getLsbD 1 }) ∨
    KeepsInterruptBits s (hostWrite a size v s) := by
  obtain ⟨e, -, he⟩ | ⟨hn, he⟩ := hostWrite_cases a size v s <;> rw [he]
  · exact .inr (.inr (raiseError_keeps_interruptBits e _ s))
  obtain ⟨hx, hw⟩ | ⟨hx, hw⟩ | ⟨hdone, herr, hieDone, hieErr⟩ := writeTarget_interrupt_bits v s (target a)
  · exact .inl ⟨target_eq_status hx, size_of_accessError_none hn, hw⟩
  · exact .inr (.inl ⟨target_eq_ctrl hx, size_of_accessError_none hn,
      hw.trans (writeCtrl_of_not_softReset hx hn hsoft)⟩)
  · exact .inr (.inr ⟨hdone.trans, herr, hieDone.trans, hieErr.trans⟩)

/-- A step without a reset writes STATUS, sets the enables, or clears none of the four bits. -/
theorem step_interruptBits {s t : State} (h : step s = .next t) (hr : ¬ ResetsNext s) :
    (∃ v, HostWritesNext s 0x0008 (· = v) ∧
      t.done = (s.done && !v.getLsbD 1) ∧ t.err = (s.err && !v.getLsbD 2) ∧ t.ieDone = s.ieDone ∧ t.ieErr = s.ieErr) ∨
    (∃ v, HostWritesNext s 0x000C (· = v) ∧
      t.done = s.done ∧ t.err = s.err ∧ t.ieDone = v.getLsbD 0 ∧ t.ieErr = v.getLsbD 1) ∨
    KeepsInterruptBits s t := by
  cases stepWithoutReset_of_step h hr with
  | completes es _ hc =>
    exact .inr (.inr ⟨fun _ => hc.done, hc.err.trans, hc.ieDone.trans, hc.ieErr.trans⟩)
  | quiet es low _ ht =>
    subst ht
    exact .inr (.inr ⟨id, id, id, id⟩)
  | read a size rest _ ht =>
    obtain ⟨hdone, herr, hieDone, hieErr⟩ := hostRead_keeps_interruptBits a size { s with events := rest }
    exact .inr (.inr (ht ▸ ⟨hdone, herr, hieDone, hieErr⟩))
  | write a size v rest _ hopen hev hsoft ht =>
    obtain ⟨rfl, rfl, hw⟩ | ⟨rfl, rfl, hw⟩ | ⟨hdone, herr, hieDone, hieErr⟩ :=
      hostWrite_interruptBits { s with events := rest } hsoft
    · rw [ht, hw, writeStatus_eq]
      exact .inl ⟨v, ⟨hopen, v, rest, hev, rfl⟩, rfl, rfl, rfl, rfl⟩
    · rw [ht, hw]
      exact .inr (.inl ⟨v, ⟨hopen, v, rest, hev, rfl⟩, rfl, rfl, rfl, rfl⟩)
    · exact .inr (.inr (ht ▸ ⟨hdone, herr, hieDone, hieErr⟩))

theorem HostWritesNext_mono {s : State} {a : Addr} {p q : Word → Prop} (h : HostWritesNext s a p)
    (hpq : ∀ v, p v → q v) : HostWritesNext s a q := by
  obtain ⟨hopen, v, rest, hev, hp⟩ := h
  exact ⟨hopen, v, rest, hev, hpq v hp⟩

/-- Without a reset, DONE falls only by the host's write of 1 to its bit of STATUS. -/
theorem done_cleared_by_host {s t : State} (h : step s = .next t) (hr : ¬ ResetsNext s) (hs : s.done = true)
    (ht : t.done = false) : HostWritesNext s 0x0008 fun v => v.getLsbD 1 = true := by
  obtain ⟨v, hw, hd, -⟩ | ⟨v, -, hd, -⟩ | hk := step_interruptBits h hr
  · refine HostWritesNext_mono hw ?_
    rintro _ rfl
    simpa [hs, ht] using hd
  · simp [hs, ht] at hd
  · simp [hk.done hs] at ht

/-- Without a reset, ERR falls only by the host's write of 1 to its bit of STATUS. -/
theorem err_cleared_by_host {s t : State} (h : step s = .next t) (hr : ¬ ResetsNext s) (hs : s.err = true)
    (ht : t.err = false) : HostWritesNext s 0x0008 fun v => v.getLsbD 2 = true := by
  obtain ⟨v, hw, -, he, -⟩ | ⟨v, -, -, he, -⟩ | hk := step_interruptBits h hr
  · refine HostWritesNext_mono hw ?_
    rintro _ rfl
    simpa [hs, ht] using he
  · simp [hs, ht] at he
  · simp [hk.err hs] at ht

/-- Without a reset, IE_DONE falls only by the host's write of 0 to its bit of CTRL. -/
theorem ieDone_cleared_by_host {s t : State} (h : step s = .next t) (hr : ¬ ResetsNext s) (hs : s.ieDone = true)
    (ht : t.ieDone = false) : HostWritesNext s 0x000C fun v => v.getLsbD 0 = false := by
  obtain ⟨v, -, -, -, hi, -⟩ | ⟨v, hw, -, -, hi, -⟩ | hk := step_interruptBits h hr
  · simp [hs, ht] at hi
  · refine HostWritesNext_mono hw ?_
    rintro _ rfl
    rw [← hi, ht]
  · simp [hk.ieDone hs] at ht

/-- Without a reset, IE_ERR falls only by the host's write of 0 to its bit of CTRL. -/
theorem ieErr_cleared_by_host {s t : State} (h : step s = .next t) (hr : ¬ ResetsNext s) (hs : s.ieErr = true)
    (ht : t.ieErr = false) : HostWritesNext s 0x000C fun v => v.getLsbD 1 = false := by
  obtain ⟨v, -, -, -, -, hi⟩ | ⟨v, hw, -, -, -, hi⟩ | hk := step_interruptBits h hr
  · simp [hs, ht] at hi
  · refine HostWritesNext_mono hw ?_
    rintro _ rfl
    rw [← hi, ht]
  · simp [hk.ieErr hs] at ht

theorem irq_iff (s : State) :
    irq s = true ↔ (s.done = true ∧ s.ieDone = true) ∨ (s.err = true ∧ s.ieErr = true) := by simp [irq]

/-- irq falls only when one of the two bits that held it up falls, so by the host's write to that bit. -/
theorem irq_cleared_by_host {s t : State} (h : step s = .next t) (hr : ¬ ResetsNext s) (hs : irq s = true)
    (ht : irq t = false) :
    HostWritesNext s 0x0008 (fun v => v.getLsbD 1 = true ∨ v.getLsbD 2 = true) ∨
      HostWritesNext s 0x000C (fun v => v.getLsbD 0 = false ∨ v.getLsbD 1 = false) := by
  obtain ⟨htd, hte⟩ : (t.done = false ∨ t.ieDone = false) ∧ (t.err = false ∨ t.ieErr = false) := by
    simpa only [irq, Bool.or_eq_false_iff, Bool.and_eq_false_iff] using ht
  obtain ⟨hd, hi⟩ | ⟨he, hi⟩ := (irq_iff s).mp hs
  · obtain htd | hti := htd
    · exact .inl (HostWritesNext_mono (done_cleared_by_host h hr hd htd) fun _ => .inl)
    · exact .inr (HostWritesNext_mono (ieDone_cleared_by_host h hr hi hti) fun _ => .inl)
  · obtain hte | hti := hte
    · exact .inl (HostWritesNext_mono (err_cleared_by_host h hr he hte) fun _ => .inr)
    · exact .inr (HostWritesNext_mono (ieErr_cleared_by_host h hr hi hti) fun _ => .inr)

/-! ### The control registers at the port (10_state.md R17 to R23) -/

/-- Only a read of a coefficient makes a fault record (R16, R40). -/
theorem noteRead_of_not_registerFile (s : State) {x : Target} (hf : x.isRegisterFile = false) : noteRead s x = s := by
  cases x with
  | coeff => cases hf
  | _ => rfl

/-- A word read outside the register files returns its word and changes nothing else, busy or idle. -/
theorem hostRead_outside_registerFiles {a : Addr} {x : Target} (s : State) (hx : target a = x) (ha : a.toNat % 4 = 0)
    (hf : x.isRegisterFile = false) : hostRead a 4 s = { s with lastRead := some (readTarget s x) } := by
  rw [hostRead_of_target hx ha (.inr hf), noteRead_of_not_registerFile s hf]

/-- R18: the two enables in bits 0 and 1, and 0 above. -/
theorem ctrlWord_fields (s : State) :
    (ctrlWord s).getLsbD 0 = s.ieDone ∧ (ctrlWord s).getLsbD 1 = s.ieErr ∧ (ctrlWord s).extractLsb' 2 30 = 0 := by
  refine ⟨?_, ?_, BitVec.eq_of_getLsbD_eq fun i hi => ?_⟩
  · simp only [ctrlWord, BitVec.getLsbD_append]
    simp
  · simp only [ctrlWord, BitVec.getLsbD_append]
    simp
  · simp only [ctrlWord, BitVec.getLsbD_extractLsb', BitVec.getLsbD_append]
    rw [if_neg (by omega), if_neg (by omega)]
    simp

/-- The low four bits of STATUS, one flag each (R17). -/
theorem statusWord_flags (s : State) :
    (statusWord s).getLsbD 0 = s.busy ∧ (statusWord s).getLsbD 1 = s.done ∧ (statusWord s).getLsbD 2 = s.err ∧
      (statusWord s).getLsbD 3 = s.eovf := by
  simp only [statusWord, BitVec.getLsbD_append]
  simp

/-- Above the flags of STATUS, ERRCODE starts at bit 8 and every other bit is 0 (R17). -/
theorem statusWord_getLsbD_above_flags (s : State) (n : Nat) :
    (statusWord s).getLsbD (4 + n) = (decide (4 ≤ n) && s.errcode.getLsbD (n - 4)) := by
  simp only [statusWord, BitVec.getLsbD_append]
  iterate 4 rw [if_neg (by omega)]
  rw [show 4 + n - 1 - 1 - 1 - 1 = n by omega]
  split
  · next h => simp [Nat.not_le.mpr h]
  · split
    · next h _ => simp [Nat.not_lt.mp h]
    · next h hc => simp [BitVec.getLsbD_of_ge s.errcode (n - 4) (by omega)]

theorem statusWord_errcode (s : State) : (statusWord s).extractLsb' 8 4 = s.errcode := by
  refine BitVec.eq_of_getLsbD_eq fun i hi => ?_
  rw [BitVec.getLsbD_extractLsb', show 8 + i = 4 + (4 + i) by omega, statusWord_getLsbD_above_flags]
  simp [hi]

theorem statusWord_reserved (s : State) :
    (statusWord s).extractLsb' 4 4 = 0 ∧ (statusWord s).extractLsb' 12 20 = 0 := by
  refine ⟨BitVec.eq_of_getLsbD_eq fun i hi => ?_, BitVec.eq_of_getLsbD_eq fun i hi => ?_⟩
  · rw [BitVec.getLsbD_extractLsb', statusWord_getLsbD_above_flags]
    simp [hi]
  · rw [BitVec.getLsbD_extractLsb', show 12 + i = 4 + (8 + i) by omega, statusWord_getLsbD_above_flags,
      BitVec.getLsbD_of_ge s.errcode _ (by omega)]
    simp

/-- Settles O43: a write to CMD is `writeCmd`, whose three branches these are. -/
theorem commandAcceptance : Obligations.CommandAcceptance := by
  intro s v
  rw [hostWrite_of_target v target_cmd (by decide) (.inr rfl), writeTarget, writeCmd]
  exact ⟨fun hb => by simp [hb], fun hb e he => by simp [hb, he], fun hb i hd => by simp [hb, hd, accept]⟩

/-- Settles O53: each address names its register, which is no register file, so the access is never refused. -/
theorem controlRegisterPort : Obligations.ControlRegisterPort := by
  intro s v
  refine ⟨?_, ?_, ?_, ?_, ?_, ?_, ?_, ?_, ?_⟩
  · exact hostRead_outside_registerFiles s target_id (by decide) rfl
  · exact hostRead_outside_registerFiles s target_cmd (by decide) rfl
  · exact hostRead_outside_registerFiles s target_errinfo (by decide) rfl
  · exact hostRead_outside_registerFiles s target_cmdcount (by decide) rfl
  · exact hostRead_outside_registerFiles s target_hwcfg (by decide) rfl
  · exact hostWrite_of_target v target_id (by decide) (.inr rfl)
  · exact hostWrite_of_target v target_errinfo (by decide) (.inr rfl)
  · exact hostWrite_of_target v target_cmdcount (by decide) (.inr rfl)
  · exact hostWrite_of_target v target_hwcfg (by decide) (.inr rfl)

/-- Settles O54: STATUS returns `statusWord`. -/
theorem statusReadsItsFields : Obligations.StatusReadsItsFields := by
  intro s
  obtain ⟨hbusy, hdone, herr, heovf⟩ := statusWord_flags s
  obtain ⟨hlow, hhigh⟩ := statusWord_reserved s
  exact ⟨statusWord s, hostRead_outside_registerFiles s target_status (by decide) rfl, hbusy, hdone, herr, heovf,
    statusWord_errcode s, hlow, hhigh⟩

theorem hostRead_ctrl (s : State) : hostRead 0x000C 4 s = { s with lastRead := some (ctrlWord s) } :=
  hostRead_outside_registerFiles s target_ctrl (by decide) rfl

theorem hostWrite_ctrl (v : Word) (s : State) : hostWrite 0x000C 4 v s = writeCtrl v s :=
  hostWrite_of_target v target_ctrl (by decide) (.inr rfl)

/-- Settles O56: CTRL's write and read at the port, irq as a function of four bits, and who clears each of them. -/
theorem ctrlAndInterrupt : Obligations.CtrlAndInterrupt := by
  refine ⟨fun s v => ⟨fun hv => ?_, fun hv => ?_, ⟨_, hostRead_ctrl s, ctrlWord_fields s⟩, irq_iff s⟩, ?_, rfl,
    fun s t h hr => ⟨done_cleared_by_host h hr, err_cleared_by_host h hr, ieDone_cleared_by_host h hr,
      ieErr_cleared_by_host h hr, irq_cleared_by_host h hr⟩⟩
  · rw [hostWrite_ctrl, writeCtrl, if_neg (ne_true_of_eq_false hv)]
  · rw [hostWrite_ctrl, writeCtrl, if_pos hv]
    exact resetBlock_HasResetValues s
  · rw [hostRead_ctrl]
    rfl

end Sys2Proof.Proofs

/-! PROOFS. The host port (20_memory.md): refused accesses, accesses while a command runs, the register files, the twiddle
ROMs and the addresses without a register. -/

namespace Sys2Proof.Proofs

open Sys2Proof.Machine Sys2Proof.SpecMath
open Sys2Proof.Config (Q MONT ROOT ZETAS ZETAS_INV)

/-! ### Refused accesses (20_memory.md R35, R36, R41) -/

/-- A refused write records its error and does nothing else. -/
theorem hostWrite_of_error {a : Addr} {size : Nat} {s : State} {e : ErrCode} (v : Word)
    (h : accessError a size s = some e) : hostWrite a size v s = raiseError e (a.setWidth 32) s := by
  simp only [hostWrite, h]

/-- A refused read records its error and returns 0. -/
theorem hostRead_of_error {a : Addr} {size : Nat} {s : State} {e : ErrCode} (h : accessError a size s = some e) :
    hostRead a size s = { raiseError e (a.setWidth 32) s with lastRead := some 0 } := by
  simp only [hostRead, h]

theorem accessError_misaligned {a : Addr} {size : Nat} (s : State) (h : size ≠ 4 ∨ a.toNat % 4 ≠ 0) :
    accessError a size s = some .misaligned := by
  rw [accessError, if_pos h]

theorem accessError_busy {a : Addr} {s : State} (ha : a.toNat % 4 = 0) (hb : s.busy = true)
    (hf : (target a).isRegisterFile = true) : accessError a 4 s = some .accessBusy := by
  rw [accessError, if_neg (by simp [ha]), if_pos ⟨hb, hf⟩]

/-- While a command runs, an access without an error is at no register file (R41). -/
theorem not_isRegisterFile_of_accessError_none {a : Addr} {size : Nat} {s : State} (hb : s.busy = true)
    (h : accessError a size s = none) : (target a).isRegisterFile = false := by
  by_contra hf
  rw [accessError, if_pos (show s.busy = true ∧ _ from ⟨hb, Bool.eq_true_of_not_eq_false hf⟩)] at h
  split at h <;> cases h

/-- Outside the S and P ranges no address names a register file (R31). -/
theorem target_not_isRegisterFile {a : Addr} (h : ¬ ((0x0100 ≤ a.toNat ∧ a.toNat ≤ 0x017F) ∨ 0x8000 ≤ a.toNat)) :
    (target a).isRegisterFile = false := by
  have hS : ¬ (0x0100 ≤ a.toNat ∧ a.toNat < 0x0180) := by omega
  have hP : ¬ 0x8000 ≤ a.toNat := fun hp => h (.inr hp)
  simp only [target, if_neg hS, if_neg hP]
  split_ifs <;> rfl

/-- Settles O45: the check of size and alignment comes before every other. -/
theorem misalignedAccessRefused : Obligations.MisalignedAccessRefused := by
  intro a size v s h
  have he := accessError_misaligned s h
  exact ⟨hostWrite_of_error v he, hostRead_of_error he⟩

/-! ### Accesses while a command runs (20_memory.md R41) -/

theorem writeCmd_busy {s : State} (v : Word) (hb : s.busy = true) : writeCmd v s = raiseError .cmdBusy v s := by
  rw [writeCmd, if_pos hb]

/-- An allowed write anywhere but at CMD sets neither ERR nor EOVF. -/
theorem writeTarget_raises_no_error (v : Word) (s : State) {x : Target} (hx : x ≠ .cmd) :
    ((writeTarget v s x).err = true → s.err = true) ∧ ((writeTarget v s x).eovf = true → s.eovf = true) := by
  cases x with
  | cmd => exact absurd rfl hx
  | status =>
    rw [writeTarget, writeStatus_eq]
    exact ⟨Bool.and_elim_left, Bool.and_elim_left⟩
  | ctrl =>
    rw [writeTarget, writeCtrl]
    split
    · exact ⟨nofun, nofun⟩
    · exact ⟨id, id⟩
  | _ => exact ⟨id, id⟩

/-- Settles O46: the three cases are alignment and then the ranges of the register files. -/
theorem busyAccessRefused : Obligations.BusyAccessRefused := by
  intro a v s hb
  refine ⟨fun ha hin => ?_, fun ha => misalignedAccessRefused a 4 v s (.inr ha), fun ha hout => ?_⟩
  · have he := accessError_busy ha hb (target_isRegisterFile a (by omega))
    exact ⟨hostWrite_of_error v he, hostRead_of_error he⟩
  · have hf := target_not_isRegisterFile hout
    refine ⟨accessError_none ha (.inr hf), ⟨_, hostRead_outside_registerFiles s rfl ha hf⟩, ?_, fun hne => ?_⟩
    · rintro rfl
      exact (hostWrite_of_target v target_cmd ha (.inr rfl)).trans (writeCmd_busy v hb)
    · rw [hostWrite_of_target v rfl ha (.inr hf)]
      exact writeTarget_raises_no_error v s fun hx => hne (target_eq_cmd hx)

/-- While a command runs, an allowed write that is no soft reset leaves S, P and CLATCH alone: CMD refuses it, and the
other registers in reach are no operands. -/
theorem writeTarget_busy_keeps_operands {a : Addr} {size : Nat} {v : Word} {s : State} (hb : s.busy = true)
    (hn : accessError a size s = none) (hsoft : ¬ IsSoftReset a size v) :
    (writeTarget v s (target a)).sregs = s.sregs ∧ (writeTarget v s (target a)).pregs = s.pregs ∧
      (writeTarget v s (target a)).engine = s.engine := by
  have hf := not_isRegisterFile_of_accessError_none hb hn
  cases hx : target a with
  | scalar | coeff =>
    rw [hx] at hf
    cases hf
  | cmd => simp [writeTarget, writeCmd_busy v hb]
  | status => simp [writeTarget, writeStatus_eq]
  | ctrl => simp [writeTarget, writeCtrl_of_not_softReset hx hn hsoft]
  | _ => exact ⟨rfl, rfl, rfl⟩

/-- Settles O47: a refused access only records its error, an allowed read writes no register, and an allowed write
reaches no operand. -/
theorem busyHostCannotDisturb : Obligations.BusyHostCannotDisturb := by
  intro a size v s hb
  refine ⟨fun hsoft => ?_, ?_⟩
  · obtain ⟨e, -, he⟩ | ⟨hn, he⟩ := hostWrite_cases a size v s <;> rw [he]
    · simp
    · exact writeTarget_busy_keeps_operands hb hn hsoft
  · obtain ⟨e, -, he⟩ | ⟨-, he⟩ := hostRead_cases a size s <;> rw [he]
    · simp
    · exact ⟨rfl, rfl, rfl⟩

/-! ### Reads (20_memory.md R40) -/

/-- What a read changes, the word returned and the fault record, no read returns. -/
theorem readTarget_with_read (s : State) (w : Option Word) (u : Bool) (x : Target) :
    readTarget { s with lastRead := w, unwrittenUse := u } x = readTarget s x := by
  cases x <;> rfl

theorem hostRead_lastRead {a : Addr} {size : Nat} {s : State} (h : accessError a size s = none) :
    (hostRead a size s).lastRead = some (readTarget s (target a)) := by
  simp only [hostRead, h]

/-- Settles O48: an allowed read changes two fields of the model's own, which no access check and no read looks at. -/
theorem readsHaveNoSideEffect : Obligations.ReadsHaveNoSideEffect := by
  intro a s h
  obtain ⟨e, he, -⟩ | ⟨-, hr⟩ := hostRead_cases a 4 s
  · rw [h] at he
    cases he
  obtain ⟨w, u, ht⟩ : ∃ w u, hostRead a 4 s = { s with lastRead := w, unwrittenUse := u } := ⟨_, _, hr⟩
  have hn : accessError a 4 (hostRead a 4 s) = none := by
    rw [ht]
    exact h
  refine ⟨⟨w, u, ht⟩, ?_⟩
  rw [hostRead_lastRead hn, hostRead_lastRead h, ht, readTarget_with_read]

/-! ### The register files at the port (20_memory.md R32, R33) -/

/-- A byte address wraps modulo a multiple of 4, so it is aligned when its number is. -/
theorem aligned_ofNat {n : Nat} (h : n % 4 = 0) : (BitVec.ofNat 16 n : Addr).toNat % 4 = 0 := by
  rw [BitVec.toNat_ofNat]
  omega

/-- Settles O49: while idle the port reaches S[i] by `readS` and `writeS`. -/
theorem scalarRegisterPort : Obligations.ScalarRegisterPort := by
  intro i v s hb a
  have hx : target a = .scalar i := target_scalar i
  have ha : a.toNat % 4 = 0 := aligned_ofNat (by omega)
  have hw : hostWrite a 4 v s = s.writeS i v := hostWrite_of_target v hx ha (.inl hb)
  rw [hw]
  exact ⟨hostRead_of_target hx ha (.inl hb), readS_writeS_same s i v, fun j hj => readS_writeS_other s hj v, rfl⟩

/-- Settles O50: while idle the port reaches P[r][k] by `readCoeff` and `writeCoeff`. -/
theorem coefficientPort : Obligations.CoefficientPort := by
  intro r k v s hb a
  have hx : target a = .coeff r k := target_coeff r k
  have ha : a.toNat % 4 = 0 := aligned_ofNat (by omega)
  have hw : hostWrite a 4 v s = s.writeCoeff r k v := hostWrite_of_target v hx ha (.inl hb)
  rw [hw, hostRead_of_target hx ha (.inl hb)]
  refine ⟨rfl, ?_, fun q l hne => ?_, rfl⟩
  · rw [coeff_writeCoeff, if_pos ⟨rfl, rfl⟩]
  · rw [coeff_writeCoeff, if_neg fun ⟨hq, hl⟩ => hne (Prod.ext hq hl)]

/-! ### Addresses without a register (20_memory.md R38) -/

/-- Settles O52: each address of the three ranges names no register. -/
theorem unmappedAddressesInert : Obligations.UnmappedAddressesInert := by
  intro a v s ha h
  have hx := target_reserved a ha h
  exact ⟨hostRead_outside_registerFiles s hx ha rfl, hostWrite_of_target v hx ha (.inr rfl)⟩

/-! ### The twiddle ROMs (20_memory.md R34, 42_ntt.md R86, R87) -/

theorem target_zetas {k : Nat} (hk : k < 256) : target (BitVec.ofNat 16 (0x0400 + 4 * k)) = .zetas k := by
  have hn : (BitVec.ofNat 16 (0x0400 + 4 * k)).toNat = 0x0400 + 4 * k := by
    rw [BitVec.toNat_ofNat]
    omega
  rw [target_rom _ (by omega), if_pos (by omega), hn]
  congr 1
  omega

theorem target_zetasInv {m : Nat} (hm : m < 256) : target (BitVec.ofNat 16 (0x0800 + 4 * m)) = .zetasInv m := by
  have hn : (BitVec.ofNat 16 (0x0800 + 4 * m)).toNat = 0x0800 + 4 * m := by
    rw [BitVec.toNat_ofNat]
    omega
  rw [target_rom _ (by omega), if_neg (by omega), hn]
  congr 1
  omega

/-- The printed table of R86 is its formula, entry by entry. -/
theorem zetas_eq_map_zeta : ZETAS = (List.range 256).map fun k => BitVec.ofNat 32 (zeta k) := by decide +kernel

/-- The printed table of R87 is its closed form, entry by entry. -/
theorem zetasInv_eq_map_zetaInv : ZETAS_INV = (List.range 255).map fun m => BitVec.ofNat 32 (zetaInv m) := by
  decide +kernel

theorem zetas_getD {k : Nat} (hk : k < 256) : ZETAS.getD k 0 = BitVec.ofNat 32 (zeta k) := by
  simp [zetas_eq_map_zeta, hk]

theorem zetasInv_getD {m : Nat} (hm : m < 255) : ZETAS_INV.getD m 0 = BitVec.ofNat 32 (zetaInv m) := by
  simp [zetasInv_eq_map_zetaInv, hm]

/-- Within a level, an inverse block's forward twiddle number is the mirror of the block's own: the low bits are
complemented, so the two reversals add up to 256. -/
theorem brv8_mirror : ∀ l < 8, ∀ b < 128 / 2 ^ l,
    brv8 (255 - (256 - 256 / 2 ^ l + b)) + brv8 (128 / 2 ^ l + b) = 256 := by decide +kernel

/-- ROOT is a primitive 512-th root of unity, so its 256-th power is −1 (R5). -/
theorem root_pow_256 : (ROOT : ZMod Q) ^ 256 = -1 := by
  have hdvd : Q ∣ ROOT ^ 256 + 1 := by decide +kernel
  have hzero : ((ROOT ^ 256 + 1 : ℕ) : ZMod Q) = 0 := (ZMod.natCast_eq_zero_iff _ _).mpr hdvd
  push_cast at hzero
  exact eq_neg_of_add_eq_zero_left hzero

/-- Below the word after the last entry, the closed form of R87 is the negated forward entry modulo Q. -/
theorem natCast_zetaInv {m : Nat} (hm : m < 255) :
    (zetaInv m : ZMod Q) = -((MONT : ZMod Q) * (ROOT : ZMod Q) ^ brv8 (255 - m)) := by
  have hle : MONT * ROOT ^ brv8 (255 - m) % Q ≤ Q := (Nat.mod_lt _ (by decide)).le
  rw [zetaInv, zeta, if_neg (by omega), Nat.cast_sub hle, ZMod.natCast_self, ZMod.natCast_mod]
  push_cast
  ring

/-- Two twiddle numbers whose reversals add up to 256: the inverse entry undoes the forward one, up to MONT. -/
theorem zetaInv_mul_root_pow {m y : Nat} (hm : m < 255) (hy : brv8 (255 - m) + y = 256) :
    zetaInv m * ROOT ^ y % Q = MONT := by
  have hcast : ((zetaInv m * ROOT ^ y : ℕ) : ZMod Q) = (MONT : ℕ) :=
    calc ((zetaInv m * ROOT ^ y : ℕ) : ZMod Q)
        = -((MONT : ZMod Q) * (ROOT : ZMod Q) ^ brv8 (255 - m)) * (ROOT : ZMod Q) ^ y := by
          push_cast
          rw [natCast_zetaInv hm]
      _ = -((MONT : ZMod Q) * (ROOT : ZMod Q) ^ 256) := by rw [← hy]; ring
      _ = (MONT : ℕ) := by rw [root_pow_256]; ring
  rw [(ZMod.natCast_eq_natCast_iff' _ _ Q).mp hcast]
  decide

/-- The twiddle number of a block of an inverse level lies inside the ROM (R87). -/
theorem inverse_block_lt {l b : Nat} (hl : l < 8) (hb : b < 128 / 2 ^ l) : 256 - 256 / 2 ^ l + b < 255 := by
  have hle : 128 / 2 ^ l ≤ 128 := Nat.div_le_self _ _
  have hdouble : 256 / 2 ^ l = 2 * (128 / 2 ^ l) := by
    interval_cases l <;> rfl
  omega

/-- Settles O51: the addresses name the ROM entries, the printed tables are the formulas, and an inverse entry is the
negated forward entry of the mirrored number. -/
theorem twiddleRomPort : Obligations.TwiddleRomPort := by
  intro s
  refine ⟨fun k hk => ?_, fun m hm => ?_, fun l hl b hb => ?_, ?_, fun a v ha hlo hhi => ?_⟩
  · rw [hostRead_outside_registerFiles s (target_zetas hk) (aligned_ofNat (by omega)) rfl, readTarget, zetas_getD hk]
  · rw [hostRead_outside_registerFiles s (target_zetasInv (by omega)) (aligned_ofNat (by omega)) rfl, readTarget,
      zetasInv_getD hm]
  · exact zetaInv_mul_root_pow (inverse_block_lt hl hb) (brv8_mirror l hl b hb)
  · exact hostRead_outside_registerFiles s (target_zetasInv (m := 255) (by omega)) (by decide) rfl
  · have hx := target_rom a (by omega)
    split at hx
    · exact hostWrite_of_target v hx ha (.inr rfl)
    · exact hostWrite_of_target v hx ha (.inr rfl)

end Sys2Proof.Proofs

/-! PROOFS. The encoding of DQA (30_encoding.md): every row of the opcode map rebuilds the word it matches, so the words
of the commands are exactly the words that pass the first two checks of `decode`. -/

namespace Sys2Proof.Proofs

open Sys2Proof.SpecMath

/-! ### The fields of a word under a row's mask (R51, R53) -/

theorem extractLsb'_of_masked {v mask pat : Word} {lo len : Nat} (h : v &&& mask = pat)
    (hm : mask.extractLsb' lo len = BitVec.allOnes len) : v.extractLsb' lo len = pat.extractLsb' lo len := by
  rw [← h, BitVec.extractLsb'_and, hm, BitVec.and_allOnes]

/-- The field at `lo` of a word, cleared where the mask covers it: what a command that a row builds can depend on. -/
def usedField (mask v : Word) (lo : Nat) : Fin 32 := if mask.extractLsb' lo 5 = 0 then regField v lo else 0

/-- A field that a row's mask covers is 0 in every word of the row, so clearing it changes nothing. -/
theorem usedField_of_masked {v mask pat : Word} {lo : Nat} (h : v &&& mask = pat)
    (hm : mask.extractLsb' lo 5 = 0 ∨ mask.extractLsb' lo 5 = BitVec.allOnes 5) (hp : pat.extractLsb' lo 5 = 0) :
    usedField mask v lo = regField v lo := by
  rcases hm with hm | hm
  · exact if_pos hm
  · rw [usedField, regField, extractLsb'_of_masked h hm, hp, hm, if_neg (by decide)]
    rfl

/-! ### The rows of the opcode map (R51) -/

/-- Every row's mask covers each operand field wholly or not at all, and its match is 0 there. -/
theorem operand_fields_of_row : ∀ row ∈ opcodeMap, ∀ lo ∈ [21, 16, 11, 6],
    (row.mask.extractLsb' lo 5 = 0 ∨ row.mask.extractLsb' lo 5 = BitVec.allOnes 5) ∧ row.pat.extractLsb' lo 5 = 0 := by
  decide

/-- Every row's mask covers the opcode and the reserved bits 5:0, and its match is 0 in the reserved bits. -/
theorem fixed_fields_of_row : ∀ row ∈ opcodeMap, row.mask.extractLsb' 26 6 = BitVec.allOnes 6 ∧
    row.mask.extractLsb' 0 6 = BitVec.allOnes 6 ∧ row.pat.extractLsb' 0 6 = 0 := by
  decide

/-- The word of the command that a row builds: the row's opcode and the operand fields its mask leaves free. -/
theorem encode_build : ∀ row ∈ opcodeMap, ∀ v, encode (row.build (fieldsOf v)) =
    packWord (opcField row.pat) (usedField row.mask v 21) (usedField row.mask v 16) (usedField row.mask v 11)
      (usedField row.mask v 6) := by
  intro row hrow v
  unfold opcodeMap at hrow
  fin_cases hrow <;> rfl

/-- A word that a row matches under its mask is the word of the command the row builds from its fields. -/
theorem encode_build_of_masked {row : OpRow} {v : Word} (hrow : row ∈ opcodeMap) (h : v &&& row.mask = row.pat) :
    encode (row.build (fieldsOf v)) = v := by
  obtain ⟨hopc, hz, hpz⟩ := fixed_fields_of_row row hrow
  have hfield : ∀ lo ∈ [21, 16, 11, 6], usedField row.mask v lo = regField v lo := fun lo hlo =>
    usedField_of_masked h (operand_fields_of_row row hrow lo hlo).1 (operand_fields_of_row row hrow lo hlo).2
  have hopcode : opcField row.pat = opcField v := congrArg BitVec.toNat (extractLsb'_of_masked h hopc).symm
  have hreserved : v.toNat % 64 = 0 := by
    simpa using congrArg BitVec.toNat ((extractLsb'_of_masked h hz).trans hpz)
  rw [encode_build row hrow, hopcode, hfield 21 (by simp), hfield 16 (by simp), hfield 11 (by simp),
    hfield 6 (by simp)]
  exact packWord_fieldsOf v hreserved

/-- A word selects no row exactly when its opcode is one of R55's. -/
theorem rowOf_eq_none_iff (v : Word) : rowOf v = none ↔ Unassigned (opcField v) := by
  have hopc : ∀ o < 64, (rowOfOpc o).isNone ↔ Unassigned o := by unfold Unassigned; decide
  rw [← hopc (opcField v) (v.extractLsb' 26 6).isLt, Option.isNone_iff_eq_none]
  rfl

/-! ### What `decode` answers (R52), once for all words -/

/-- The word of a command passes the first two checks, so R54's operand checks decide. -/
theorem decode_encode (i : Instr) :
    decode (encode i) = if i.wellFormed then .ok i else .error .badOperand := by
  obtain ⟨row, hrow, hmask, hbuild⟩ := Laws.SelectsRow.all i
  simp only [decode, hrow, hmask, hbuild, if_true]

theorem assigned_encode (i : Instr) : ¬ Unassigned (opcField (encode i)) := by
  obtain ⟨row, hrow, -, -⟩ := Laws.SelectsRow.all i
  simp [← rowOf_eq_none_iff, hrow]

/-- A word is the word of a command, or the opcode check or the reserved-field check refuses it. -/
theorem decode_cases (v : Word) : (∃ i, encode i = v) ∨
    ((∀ i, encode i ≠ v) ∧ Unassigned (opcField v) ∧ decode v = .error .illegalOpcode) ∨
    ((∀ i, encode i ≠ v) ∧ ¬ Unassigned (opcField v) ∧ decode v = .error .reservedField) := by
  by_cases hv : ∃ i, encode i = v
  · exact .inl hv
  · have hne : ∀ i, encode i ≠ v := not_exists.mp hv
    refine .inr ?_
    cases hrow : rowOf v with
    | none => exact .inl ⟨hne, (rowOf_eq_none_iff v).mp hrow, by simp only [decode, hrow]⟩
    | some row =>
      have hmask : ¬ v &&& row.mask = row.pat := fun h =>
        hne _ (encode_build_of_masked (List.mem_of_find?_eq_some hrow) h)
      exact .inr ⟨hne, by simp [← rowOf_eq_none_iff, hrow], by simp only [decode, hrow, if_neg hmask]⟩

theorem decode_eq_ok_iff (v : Word) (i : Instr) : decode v = .ok i ↔ i.WellFormed ∧ encode i = v := by
  constructor
  · intro h
    obtain ⟨j, rfl⟩ | ⟨-, -, he⟩ | ⟨-, -, he⟩ := decode_cases v
    · rw [decode_encode] at h
      split at h
      · obtain rfl : j = i := by simpa using h
        exact ⟨‹_›, rfl⟩
      · simp at h
    · simp [he] at h
    · simp [he] at h
  · rintro ⟨hwf, rfl⟩
    rw [decode_encode, if_pos hwf]

theorem decode_encode_ne_illegalOpcode (i : Instr) : decode (encode i) ≠ .error .illegalOpcode := by
  rw [decode_encode]; split <;> simp

theorem decode_encode_ne_reservedField (i : Instr) : decode (encode i) ≠ .error .reservedField := by
  rw [decode_encode]; split <;> simp

theorem decode_eq_illegalOpcode_iff (v : Word) : decode v = .error .illegalOpcode ↔ Unassigned (opcField v) := by
  obtain ⟨i, rfl⟩ | ⟨-, hu, he⟩ | ⟨-, hu, he⟩ := decode_cases v
  · exact iff_of_false (decode_encode_ne_illegalOpcode i) (assigned_encode i)
  · exact iff_of_true he hu
  · exact iff_of_false (by simp [he]) hu

theorem decode_eq_reservedField_iff (v : Word) :
    decode v = .error .reservedField ↔ ¬ Unassigned (opcField v) ∧ ∀ i, encode i ≠ v := by
  obtain ⟨i, rfl⟩ | ⟨-, hu, he⟩ | ⟨hne, hu, he⟩ := decode_cases v
  · exact iff_of_false (decode_encode_ne_reservedField i) fun h => h.2 i rfl
  · exact iff_of_false (by simp [he]) fun h => h.1 hu
  · exact iff_of_true he ⟨hu, hne⟩

theorem decode_eq_badOperand_iff (v : Word) :
    decode v = .error .badOperand ↔ ∃ i, ¬ i.WellFormed ∧ encode i = v := by
  constructor
  · intro h
    obtain ⟨i, rfl⟩ | ⟨-, -, he⟩ | ⟨-, -, he⟩ := decode_cases v
    · refine ⟨i, fun hwf => ?_, rfl⟩
      simp [decode_encode, if_pos hwf] at h
    · simp [he] at h
    · simp [he] at h
  · rintro ⟨i, hwf, rfl⟩
    rw [decode_encode, if_neg hwf]

/-- R54's refused commands: a split command with one destination, or a P.PWACC with an empty vector or one past P31. -/
theorem not_wellFormed_iff (i : Instr) : ¬ i.WellFormed ↔
    (∃ rd rs1, i = .sP2r rd rs1 rd) ∨ (∃ rd rs1, i = .sDecomp rd rs1 rd) ∨
    (∃ rd rs1, i = .pP2r rd rs1 rd) ∨ (∃ rd rs1, i = .pDecomp rd rs1 rd) ∨
    (∃ rd rs1 rs2 n, i = .pPwacc rd rs1 rs2 n ∧ (n.val = 0 ∨ 32 < rs1.val + n.val ∨ 32 < rs2.val + n.val)) := by
  cases i with
  | sP2r rd rs1 re | sDecomp rd rs1 re | pP2r rd rs1 re | pDecomp rd rs1 re =>
    simpa [Instr.wellFormed] using eq_comm
  | pPwacc rd rs1 rs2 n =>
    simp [Instr.wellFormed]
    omega
  | _ => simp [Instr.wellFormed]

/-- The words of R54's refused commands, by their operands. -/
theorem exists_not_wellFormed_iff (v : Word) : (∃ i : Instr, ¬ i.WellFormed ∧ encode i = v) ↔
    (∃ rd rs1, encode (.sP2r rd rs1 rd) = v) ∨ (∃ rd rs1, encode (.sDecomp rd rs1 rd) = v) ∨
    (∃ rd rs1, encode (.pP2r rd rs1 rd) = v) ∨ (∃ rd rs1, encode (.pDecomp rd rs1 rd) = v) ∨
    (∃ rd rs1 rs2 n, encode (.pPwacc rd rs1 rs2 n) = v ∧
      (n.val = 0 ∨ 32 < rs1.val + n.val ∨ 32 < rs2.val + n.val)) := by
  simp only [not_wellFormed_iff]
  constructor
  · rintro ⟨i, ⟨rd, rs1, rfl⟩ | ⟨rd, rs1, rfl⟩ | ⟨rd, rs1, rfl⟩ | ⟨rd, rs1, rfl⟩ | ⟨rd, rs1, rs2, n, rfl, hn⟩, hv⟩
    · exact .inl ⟨rd, rs1, hv⟩
    · exact .inr (.inl ⟨rd, rs1, hv⟩)
    · exact .inr (.inr (.inl ⟨rd, rs1, hv⟩))
    · exact .inr (.inr (.inr (.inl ⟨rd, rs1, hv⟩)))
    · exact .inr (.inr (.inr (.inr ⟨rd, rs1, rs2, n, hv, hn⟩)))
  · rintro (⟨rd, rs1, hv⟩ | ⟨rd, rs1, hv⟩ | ⟨rd, rs1, hv⟩ | ⟨rd, rs1, hv⟩ | ⟨rd, rs1, rs2, n, hv, hn⟩)
    · exact ⟨_, .inl ⟨rd, rs1, rfl⟩, hv⟩
    · exact ⟨_, .inr (.inl ⟨rd, rs1, rfl⟩), hv⟩
    · exact ⟨_, .inr (.inr (.inl ⟨rd, rs1, rfl⟩)), hv⟩
    · exact ⟨_, .inr (.inr (.inr (.inl ⟨rd, rs1, rfl⟩))), hv⟩
    · exact ⟨_, .inr (.inr (.inr (.inr ⟨rd, rs1, rs2, n, rfl, hn⟩))), hv⟩

/-! ### The statements -/

/-- Settles O1: the word of a command passes the first two checks, and well-formedness is the third. -/
theorem decodeInvertsEncode : Obligations.DecodeInvertsEncode :=
  fun i hwf => (decode_eq_ok_iff (encode i) i).mpr ⟨hwf, rfl⟩

/-- Settles O2: each clause is a case of what `decode` answers. -/
theorem validWordIsOneCommand : Obligations.ValidWordIsOneCommand := by
  refine ⟨fun v i => (decode_eq_ok_iff v i).mp, ?_, fun v => ?_⟩
  · rintro v ⟨i, hopc⟩ hne
    exact (decode_eq_reservedField_iff v).mpr ⟨hopc ▸ assigned_encode i, hne⟩
  · have hnop : encode .nop = 0 := by decide
    rw [decode_eq_ok_iff, hnop]
    exact ⟨fun h => h.2.symm, fun h => ⟨rfl, h.symm⟩⟩

/-- Settles O3: each error has its own case of what `decode` answers, and R54's refused commands are listed. -/
theorem decodeErrorsInOrder : Obligations.DecodeErrorsInOrder := by
  intro v
  refine ⟨decode_eq_illegalOpcode_iff v, decode_eq_reservedField_iff v, ?_, fun e h => ?_⟩
  · rw [decode_eq_badOperand_iff, exists_not_wellFormed_iff]
  · obtain ⟨i, rfl⟩ | ⟨-, -, he⟩ | ⟨-, -, he⟩ := decode_cases v
    · rw [decode_encode] at h
      split at h
      · simp at h
      · exact .inr (.inr (Except.error.inj h).symm)
    · exact .inl (Except.error.inj (h.symm.trans he))
    · exact .inr (.inl (Except.error.inj (h.symm.trans he)))

/-- Settles O4: closed facts about single words, each evaluated. -/
theorem specWordsDecode : Obligations.SpecWordsDecode := by
  unfold Obligations.SpecWordsDecode
  decide

end Sys2Proof.Proofs

/-! PROOFS. The reductions and their scalar commands (40_reduction.md): what each function of R59 to R63 computes, as
numbers, and the frame of a scalar command. -/

namespace Sys2Proof.Proofs

open Sys2Proof.Machine Sys2Proof.SpecMath
open Sys2Proof.Config (Q QINV)

/-! ### RED32, CSUBQ and FREEZE on numbers -/

/-- R59: no step of RED32 wraps. -/
theorem toNat_red32 (a : Word) : (red32 a).toNat = a.toNat % 2 ^ 23 + a.toNat / 2 ^ 23 * (2 ^ 13 - 1) := by
  have hlo : (a &&& 0x7FFFFF).toNat = a.toNat % 2 ^ 23 := by
    rw [BitVec.toNat_and]; exact Nat.and_two_pow_sub_one_eq_mod a.toNat 23
  have hhi : (a >>> 23).toNat = a.toNat / 2 ^ 23 := by rw [BitVec.toNat_ushiftRight, Nat.shiftRight_eq_div_pow]
  have ha := a.isLt
  rw [red32, BitVec.toNat_sub, BitVec.toNat_add, BitVec.toNat_shiftLeft, Nat.shiftLeft_eq, hlo, hhi]
  omega

theorem red32_le (a : Word) : (red32 a).toNat ≤ 12574208 := by
  have ha := a.isLt
  rw [toNat_red32]
  omega

/-- R59: 2^23 is 2^13 - 1 modulo Q, so moving the high part down subtracts that many multiples of Q. -/
theorem red32_mod_Q (a : Word) : (red32 a).toNat % Q = a.toNat % Q := by
  have hsub : a.toNat = (red32 a).toNat + Q * (a.toNat / 2 ^ 23) := by
    rw [toNat_red32, Q]
    omega
  rw [hsub, Nat.add_mul_mod_self_left]

/-- R60: bit 31 of the wrapped difference is clear exactly when Q ≤ a < Q + 2^31. -/
theorem toNat_csubq (a : Word) :
    (csubq a).toNat = if Q ≤ a.toNat ∧ a.toNat < Q + 2 ^ 31 then a.toNat - Q else a.toNat := by
  have ha := a.isLt
  have hd : (a - BitVec.ofNat 32 Q).toNat = if Q ≤ a.toNat then a.toNat - Q else a.toNat + 2 ^ 32 - Q := by
    rw [BitVec.toNat_sub, BitVec.toNat_ofNat, Q]
    split <;> omega
  have hsign : (a - BitVec.ofNat 32 Q).getLsbD 31 = true ↔ ¬ (Q ≤ a.toNat ∧ a.toNat < Q + 2 ^ 31) := by
    rw [← BitVec.msb_eq_getLsbD_last, BitVec.msb_eq_decide, decide_eq_true_iff, hd, Q]
    split <;> omega
  simp only [csubq, hsign]
  by_cases h : Q ≤ a.toNat ∧ a.toNat < Q + 2 ^ 31
  · rw [if_neg (not_not.mpr h), if_pos h, hd, if_pos h.left]
  · rw [if_pos h, if_neg h, BitVec.sub_add_cancel]

/-- R60: on [0, 2Q) one subtraction is enough. -/
theorem csubq_eq_mod {a : Word} (h : a.toNat < 2 * Q) : (csubq a).toNat = a.toNat % Q := by
  rw [toNat_csubq]
  unfold Q at *
  split <;> omega

/-- R61: RED32 answers a number below 2Q of the same residue. -/
theorem toNat_freeze (a : Word) : (freeze a).toNat = a.toNat % Q := by
  have hlt : (red32 a).toNat < 2 * Q := lt_of_le_of_lt (red32_le a) (by decide)
  rw [freeze, csubq_eq_mod hlt, red32_mod_Q]

/-! ### MREDC and MMUL on numbers -/

/-- The sum of R62 before it wraps: `a + t·Q`. -/
def mredcSum (a : Nat) : Nat := a + a * QINV % 2 ^ 64 % 2 ^ 32 * Q

theorem mredcNat_eq (a : Nat) : mredcNat a = mredcSum a % 2 ^ 64 / 2 ^ 32 := rfl

/-- R62: QINV is -1/Q modulo 2^32, so t·Q cancels the low half of `a`. -/
theorem two_pow_dvd_mredcSum (a : Nat) : 2 ^ 32 ∣ mredcSum a := by
  rw [mredcSum, QINV, Q]
  omega

theorem mredcSum_mod_Q (a : Nat) : mredcSum a % Q = a % Q := Nat.add_mul_mod_self_right a _ Q

/-- R62: the factor t of Q is a u32. -/
theorem mredcSum_le (a : Nat) : mredcSum a ≤ a + (2 ^ 32 - 1) * Q := by
  rw [mredcSum, Q]
  omega

/-- R62: without a wrap, MREDC divides by 2^32 modulo Q. -/
theorem mredcNat_congr {a : Nat} (h : mredcSum a < 2 ^ 64) : mredcNat a * 2 ^ 32 % Q = a % Q := by
  rw [mredcNat_eq, Nat.mod_eq_of_lt h, Nat.div_mul_cancel (two_pow_dvd_mredcSum a), mredcSum_mod_Q]

/-- R62: the sum wraps for no input up to this bound. -/
theorem mredcSum_lt {a : Nat} (h : a ≤ 2 ^ 64 - 1 - (2 ^ 32 - 1) * Q) : mredcSum a < 2 ^ 64 := by
  have hle := mredcSum_le a
  unfold Q at *
  omega

/-- The inputs below Q·2^32 are among those whose sum does not wrap. -/
theorem mredcSum_lt_of_lt {a : Nat} (h : a < Q * 2 ^ 32) : mredcSum a < 2 ^ 64 :=
  mredcSum_lt (le_trans h.le (by decide))

theorem mredcNat_lt {a : Nat} (h : a < Q * 2 ^ 32) : mredcNat a < 2 * Q := by
  have hle := mredcSum_le a
  rw [mredcNat_eq, Nat.mod_eq_of_lt (mredcSum_lt_of_lt h)]
  unfold Q at *
  omega

theorem toNat_mredc (a : DWord) : (mredc a).toNat = mredcNat a.toNat := by
  have ht : ((a * BitVec.ofNat 64 QINV) &&& 0xFFFFFFFF).toNat = a.toNat * QINV % 2 ^ 64 % 2 ^ 32 := by
    rw [BitVec.toNat_and, BitVec.toNat_mul]
    exact Nat.and_two_pow_sub_one_eq_mod _ 32
  rw [mredc, BitVec.toNat_setWidth, BitVec.toNat_ushiftRight, Nat.shiftRight_eq_div_pow, BitVec.toNat_add,
    BitVec.toNat_mul, ht, mredcNat_eq, mredcSum, BitVec.toNat_ofNat, Nat.add_mod_mod, Q]
  omega

/-- R68: S[rs2] is the high half of the input. -/
theorem toNat_mont (lo hi : Word) : (mont lo hi).toNat = mredcNat (hi.toNat * 2 ^ 32 + lo.toNat) := by
  rw [mont, toNat_mredc, BitVec.toNat_append, ← Nat.shiftLeft_add_eq_or_of_lt lo.isLt, Nat.shiftLeft_eq]

/-- R63: the product is exact in 64 bits. -/
theorem toNat_wideMul (a b : Word) : (wideMul a b).toNat = a.toNat * b.toNat := by
  have hlt : a.toNat * b.toNat < 2 ^ 32 * 2 ^ 32 := Nat.mul_lt_mul'' a.isLt b.isLt
  rw [wideMul, BitVec.toNat_mul, BitVec.toNat_setWidth_of_le (by decide), BitVec.toNat_setWidth_of_le (by decide)]
  exact Nat.mod_eq_of_lt hlt

theorem toNat_mmul (a b : Word) : (mmul a b).toNat = mmulNat a.toNat b.toNat := by
  rw [mmul, toNat_mredc, toNat_wideMul, mmulNat]

/-- R63: below Q·2^32 both laws of MREDC hold of the product. -/
theorem mmulNat_spec {a b : Nat} (h : a * b < Q * 2 ^ 32) :
    mmulNat a b < 2 * Q ∧ mmulNat a b * 2 ^ 32 % Q = a * b % Q :=
  ⟨mredcNat_lt h, mredcNat_congr (mredcSum_lt_of_lt h)⟩

/-- R63: either factor condition keeps the product of two words below Q·2^32. -/
theorem mul_lt_of_factors {a b : Nat} (hb : b < 2 ^ 32) (h : a < Q ∨ (a ≤ 189719838 ∧ b ≤ 189719838)) :
    a * b < Q * 2 ^ 32 := by
  obtain ha | ⟨ha, hb'⟩ := h
  · exact Nat.mul_lt_mul_of_lt_of_le ha hb.le (by decide)
  · exact lt_of_le_of_lt (Nat.mul_le_mul ha hb') (by decide)

/-! ### The operand forms of a scalar command -/

/-- A command of the one-source form writes the function's value to S[rd] and has the frame of that destination. -/
theorem exec_scalarUnary {i : Instr} {s : State} {f : Word → Word} {rd rs1 : SReg}
    (h : exec i s = .next (scalarUnary f rd rs1 s)) :
    ∃ t, exec i s = .next t ∧ ScalarFrame [rd] s t ∧ t.readS rd = f (s.readS rs1) := by
  refine ⟨_, h, ⟨exec_next h, fun j hj => ?_, fun r k => coeff_scalarUnary s f rd rs1 r k⟩, ?_⟩
  · rw [readS_scalarUnary, if_neg (List.mem_singleton.not.mp hj)]
  · rw [readS_scalarUnary, if_pos rfl]

/-- A command of the two-source form writes the function's value to S[rd] and has the frame of that destination. -/
theorem exec_scalarBinary {i : Instr} {s : State} {f : Word → Word → Word} {rd rs1 rs2 : SReg}
    (h : exec i s = .next (scalarBinary f rd rs1 rs2 s)) :
    ∃ t, exec i s = .next t ∧ ScalarFrame [rd] s t ∧ t.readS rd = f (s.readS rs1) (s.readS rs2) := by
  refine ⟨_, h, ⟨exec_next h, fun j hj => ?_, fun r k => coeff_scalarBinary s f rd rs1 rs2 r k⟩, ?_⟩
  · rw [readS_scalarBinary, if_neg (List.mem_singleton.not.mp hj)]
  · rw [readS_scalarBinary, if_pos rfl]

/-! ### The statements -/

/-- Settles O5: the formula, the congruence and the bound of RED32 for every word. -/
theorem sRed32Result : Obligations.SRed32Result := by
  intro rd rs1 s
  obtain ⟨t, ht, hframe, hres⟩ := exec_scalarUnary (i := .sRed32 rd rs1) (s := s) rfl
  refine ⟨t, ht, hframe, ?_⟩
  rw [hres]
  exact ⟨toNat_red32 _, red32_mod_Q _, red32_le _⟩

/-- Settles O6: both branches of CSUBQ for every word, and the canonical residue below 2Q. -/
theorem sCsubqResult : Obligations.SCsubqResult := by
  intro rd rs1 s
  obtain ⟨t, ht, hframe, hres⟩ := exec_scalarUnary (i := .sCsubq rd rs1) (s := s) rfl
  refine ⟨t, ht, hframe, ?_⟩
  rw [hres]
  exact ⟨toNat_csubq _, csubq_eq_mod⟩

/-- Settles O7: FREEZE answers the residue of every word. -/
theorem sFreezeResult : Obligations.SFreezeResult := by
  intro rd rs1 s
  obtain ⟨t, ht, hframe, hres⟩ := exec_scalarUnary (i := .sFreeze rd rs1) (s := s) rfl
  exact ⟨t, ht, hframe, by rw [hres, toNat_freeze]⟩

/-- Settles O8: MONT is MREDC of the two halves, and R62's laws are those of MREDC. -/
theorem sMontResult : Obligations.SMontResult := by
  intro rd rs1 rs2 s
  obtain ⟨t, ht, hframe, hres⟩ := exec_scalarBinary (i := .sMont rd rs1 rs2) (s := s) rfl
  refine ⟨t, ht, hframe, ?_⟩
  rw [hres, toNat_mont]
  exact ⟨rfl, mredcNat_congr, mredcSum_lt, mredcNat_lt⟩

/-- Settles O9: MONTMUL is MREDC of the exact product, and R63's laws are those of MREDC below Q·2^32. -/
theorem sMontmulResult : Obligations.SMontmulResult := by
  intro rd rs1 rs2 s
  obtain ⟨t, ht, hframe, hres⟩ := exec_scalarBinary (i := .sMontmul rd rs1 rs2) (s := s) rfl
  refine ⟨t, ht, hframe, ?_⟩
  rw [hres, toNat_mmul]
  exact ⟨rfl, mmulNat_spec, mul_lt_of_factors (s.readS rs2).isLt⟩

end Sys2Proof.Proofs

/-! PROOFS. Rounding and hints (41_rounding.md): what each function of R73 to R76 computes, as integers, the
decomposition of a canonical input (R77 items 1 and 2), and the hint law (R77 item 4). -/

namespace Sys2Proof.Proofs

open Sys2Proof.Machine Sys2Proof.SpecMath
open Sys2Proof.Config (Q D ALPHA GAMMA2 HB)

/-! ### wrap32 and the centred remainder (00_scope.md R7) -/

theorem toNat_wrap32 (v : Int) : ((wrap32 v).toNat : Int) = v % 2 ^ 32 := by
  rw [wrap32, BitVec.toNat_ofInt]
  exact Int.toNat_of_nonneg (Int.emod_nonneg v (by decide))

theorem toNat_one : (1 : Word).toNat = 1 := rfl

theorem cmod_emod (v m : Int) : cmod (v % m) m = cmod v m := by
  rw [cmod, Int.emod_emod, cmod]

theorem dvd_sub_cmod (v m : Int) : m ∣ v - cmod v m := by
  unfold cmod
  split
  · rw [← sub_add]
    exact dvd_add (Int.dvd_self_sub_emod) (dvd_refl m)
  · exact Int.dvd_self_sub_emod

/-- The centred remainder lies in (-m/2, m/2]. -/
theorem cmod_bounds (v : Int) {m : Int} (hm : 0 < m) : -m < 2 * cmod v m ∧ 2 * cmod v m ≤ m := by
  have hlt := Int.emod_lt_of_pos v hm
  have hnonneg := Int.emod_nonneg v hm.ne'
  unfold cmod
  split <;> omega

/-- R73, R74: the two centring steps answer the centred remainder of every input up to three halves of `m`. -/
theorem centre_eq_cmod {m t : Int} (hm : 2 ∣ m) (h0 : 0 ≤ t) (h1 : t < m + m / 2) : centre m t = cmod t m := by
  have hmod : t % m = if t < m then t else t - m := by
    split
    next h => exact Int.emod_eq_of_lt h0 h
    next h => rw [← Int.sub_emod_right, Int.emod_eq_of_lt (by omega) (by omega)]
  simp only [centre, cmod, hmod]
  split_ifs <;> omega

/-! ### The operand form of a scalar split command -/

/-- A command of the split form writes the two halves of the function's value and has the frame of both destinations. -/
theorem exec_scalarSplit {i : Instr} {s : State} {f : Word → Word × Word} {rd rs1 re : SReg} (hne : rd ≠ re)
    (h : exec i s = .next (scalarSplit f rd rs1 re s)) :
    ∃ t, exec i s = .next t ∧ ScalarFrame [rd, re] s t ∧
      t.readS rd = (f (s.readS rs1)).1 ∧ t.readS re = (f (s.readS rs1)).2 := by
  refine ⟨_, h, ⟨exec_next h, fun j hj => ?_, fun r k => coeff_scalarSplit s f rd rs1 re r k⟩, ?_, ?_⟩
  · obtain ⟨hrd, hre⟩ : j ≠ rd ∧ j ≠ re := by simpa using hj
    rw [readS_scalarSplit, if_neg hre, if_neg hrd]
  · rw [readS_scalarSplit, if_neg hne, if_pos rfl]
  · rw [readS_scalarSplit, if_pos rfl]

/-! ### P2R on integers -/

/-- R73: the step t of P2R is the centred remainder of the input. -/
theorem p2r_eq (a : Word) :
    p2r a = (wrap32 (a.toNat - cmod a.toNat (2 ^ 14)) >>> 14, wrap32 (Q + cmod a.toNat (2 ^ 14))) := by
  have hlow : ((a &&& BitVec.ofNat 32 (2 ^ D - 1)).toNat : Int) = (a.toNat : Int) % 2 ^ 14 := by
    rw [BitVec.toNat_and]
    exact congrArg Nat.cast (Nat.and_two_pow_sub_one_eq_mod a.toNat 14)
  have hcentre : centre (2 ^ 14) ((a.toNat : Int) % 2 ^ 14) = cmod a.toNat (2 ^ 14) := by
    rw [← cmod_emod]
    exact centre_eq_cmod (by decide) (by omega) (by omega)
  rw [p2r, hlow, ← hcentre]
  rfl

theorem toNat_p2r_high (a : Word) :
    ((p2r a).1.toNat : Int) = (a.toNat - cmod a.toNat (2 ^ 14)) % 2 ^ 32 / 2 ^ 14 := by
  rw [p2r_eq, BitVec.toNat_ushiftRight, Nat.shiftRight_eq_div_pow, ← toNat_wrap32]
  rfl

/-- R73: the stored low part does not wrap. -/
theorem toNat_p2r_low (a : Word) : ((p2r a).2.toNat : Int) = Q + cmod a.toNat (2 ^ 14) := by
  have hc := cmod_bounds a.toNat (m := 2 ^ 14) (by decide)
  rw [p2r_eq, toNat_wrap32, Q]
  omega

/-! ### DECOMP on integers -/

/-- The step t of R74. -/
def residual (a : Nat) : Int := centre ALPHA (a % 2 ^ 19 + a / 2 ^ 19 * 2 ^ 9 : Nat)

/-- The step h of R74, from its step b. -/
def bucketNumber (b : Int) : Int := b / 2 ^ 19 + 1 - if b = 0 ∨ b > 2 ^ 31 then 1 else 0

theorem decompInt_eq (a : Nat) : decompInt a =
    (bucketNumber ((a - residual a) % 2 ^ 32) % 16,
      (Q + residual a - bucketNumber ((a - residual a) % 2 ^ 32) / 16) % 2 ^ 32) := rfl

/-- R74: bit 31 of the wrapped b - 1 is set exactly when b is 0 or above 2^31, and h does not wrap. -/
theorem toNat_bucketNumber (b : Word) :
    (((b >>> 19) + 1 - if (b - 1).getLsbD 31 then 1 else 0 : Word).toNat : Int) = bucketNumber b.toNat := by
  have hb := b.isLt
  have hpred : (b - 1).toNat = if b.toNat = 0 then 2 ^ 32 - 1 else b.toNat - 1 := by
    rw [BitVec.toNat_sub, toNat_one]
    split <;> omega
  have hsign : (b - 1).getLsbD 31 = true ↔ ((b.toNat : Int) = 0 ∨ (b.toNat : Int) > 2 ^ 31) := by
    rw [← BitVec.msb_eq_getLsbD_last, BitVec.msb_eq_decide, decide_eq_true_iff, hpred]
    split <;> omega
  have hshift : (b >>> 19).toNat = b.toNat / 2 ^ 19 := by rw [BitVec.toNat_ushiftRight, Nat.shiftRight_eq_div_pow]
  simp only [bucketNumber, hsign]
  split
  · rw [BitVec.toNat_sub, BitVec.toNat_add, hshift, toNat_one]; omega
  · rw [sub_zero, BitVec.toNat_add, hshift, toNat_one]; omega

/-- R74: moving the high part down by 10 bits loses none of it, and its sum with the low part is taken on integers. -/
theorem decomp_residual (a : Word) :
    centre ALPHA ((a &&& 0x7FFFF).toNat + ((a >>> 19) <<< 9).toNat) = residual a.toNat := by
  have ha := a.isLt
  have hlo : (a &&& 0x7FFFF).toNat = a.toNat % 2 ^ 19 := by
    rw [BitVec.toNat_and]; exact Nat.and_two_pow_sub_one_eq_mod a.toNat 19
  have hhi : ((a >>> 19) <<< 9).toNat = a.toNat / 2 ^ 19 * 2 ^ 9 := by
    rw [BitVec.toNat_shiftLeft, Nat.shiftLeft_eq, BitVec.toNat_ushiftRight, Nat.shiftRight_eq_div_pow]
    omega
  rw [residual, hlo, hhi, Nat.cast_add]

/-- R74: DECOMP on words is DECOMP on integers. -/
theorem toNat_decomp (a : Word) :
    (((decomp a).1.toNat : Int), ((decomp a).2.toNat : Int)) = decompInt a.toNat := by
  have hmask (h : Word) : (h &&& 0xF).toNat = h.toNat % 16 := by
    rw [BitVec.toNat_and]; exact Nat.and_two_pow_sub_one_eq_mod h.toNat 4
  have hshift (h : Word) : (h >>> 4).toNat = h.toNat / 16 := by
    rw [BitVec.toNat_ushiftRight, Nat.shiftRight_eq_div_pow]
  simp only [decomp, decomp_residual, hmask, hshift, toNat_wrap32, Int.natCast_emod, Int.natCast_ediv,
    toNat_bucketNumber, decompInt_eq, Nat.cast_ofNat]

theorem toNat_decomp_high (a : Word) : ((decomp a).1.toNat : Int) = (decompInt a.toNat).1 := by
  rw [← toNat_decomp]

theorem toNat_decomp_low (a : Word) : ((decomp a).2.toNat : Int) = (decompInt a.toNat).2 := by
  rw [← toNat_decomp]

/-- R74: the final mask keeps the high part below 16. -/
theorem highBits_bounds (a : Nat) : 0 ≤ highBits a ∧ highBits a < 16 := by
  rw [highBits, decompInt_eq]
  omega

theorem decomp_high_lt (a : Word) : (decomp a).1.toNat < 16 := by
  have hlt := (highBits_bounds a.toNat).2
  rw [highBits, ← toNat_decomp_high] at hlt
  omega

/-! ### DECOMP of a canonical input (R77 item 2) -/

theorem alpha_eq : ALPHA = 523776 := rfl

/-- R74: 2^19 is 2^9 modulo ALPHA, so moving the high part down subtracts that many multiples of ALPHA. -/
theorem residual_eq_cmod {a : Nat} (h : a < Q) : residual a = cmod a ALPHA := by
  have hmod : ((a % 2 ^ 19 + a / 2 ^ 19 * 2 ^ 9 : Nat) : Int) % ALPHA = (a : Int) % ALPHA := by
    rw [alpha_eq]
    omega
  unfold Q at h
  rw [residual, centre_eq_cmod (by decide) (by omega) (by rw [alpha_eq]; omega), ← cmod_emod, hmod, cmod_emod]

/-- R74: the h of b = k·ALPHA is k, for the 17 multiples of ALPHA below Q. -/
theorem bucketNumber_mul_alpha {k : Int} (h0 : 0 ≤ k) (h16 : k ≤ 16) : bucketNumber (k * ALPHA) = k := by
  rw [bucketNumber, alpha_eq]
  split <;> omega

/-- R74: a canonical input is k·ALPHA plus its residual for some k up to 16, and DECOMP answers that pair, with bucket
16 folded to bucket 0. -/
theorem decompInt_canonical {a : Nat} (h : a < Q) : ∃ k : Int, 0 ≤ k ∧ k ≤ 16 ∧
    a = k * ALPHA + cmod a ALPHA ∧ decompInt a = (k % 16, Q + cmod a ALPHA - k / 16) := by
  have hc := cmod_bounds a (m := ALPHA) (by decide)
  obtain ⟨k, hk⟩ := dvd_sub_cmod a ALPHA
  rw [mul_comm] at hk
  obtain ⟨h0, h16⟩ : 0 ≤ k ∧ k ≤ 16 := by
    unfold Q at h
    rw [alpha_eq] at *
    omega
  have hb : (k * ALPHA : Int) % 2 ^ 32 = k * ALPHA := by
    rw [alpha_eq]
    omega
  refine ⟨k, h0, h16, by omega, ?_⟩
  rw [decompInt_eq, residual_eq_cmod h, hk, hb, bucketNumber_mul_alpha h0 h16]
  have hlow : (Q + cmod a ALPHA - k / 16) % 2 ^ 32 = Q + cmod a ALPHA - k / 16 := by
    rw [Q]
    rw [alpha_eq] at *
    omega
  rw [hlow]

/-! ### HINT and USEHINT on numbers -/

theorem decomp_high_eq_iff (a b : Word) : (decomp a).1 = (decomp b).1 ↔ highBits a.toNat = highBits b.toNat := by
  rw [highBits, highBits, ← toNat_decomp_high, ← toNat_decomp_high, Nat.cast_inj, BitVec.toNat_inj]

theorem toNat_hint (a b : Word) : (hint a b).toNat = hintNat a.toNat b.toNat := by
  simp only [hint, hintNat, ne_eq, decomp_high_eq_iff, toNat_freeze, BitVec.toNat_add]
  split <;> rfl

/-- R76: stepping a number below 16 and folding at the two ends is stepping modulo 16. -/
theorem toNat_useHint (a h : Word) : ((useHint a h).toNat : Int) = useHintInt a.toNat h.toNat := by
  have hlt := decomp_high_lt a
  have hzero : h = 0 ↔ h.toNat = 0 := by rw [← BitVec.toNat_inj]; rfl
  have hfirst : (decomp a).1 = 0 ↔ (decomp a).1.toNat = 0 := by rw [← BitVec.toNat_inj]; rfl
  have hlast : (decomp a).1 = BitVec.ofNat 32 (HB - 1) ↔ (decomp a).1.toNat = 15 := by rw [← BitVec.toNat_inj]; rfl
  simp only [useHint, useHintInt, ← toNat_decomp_high, ← toNat_decomp_low, hzero, hfirst, hlast, gt_iff_lt,
    Nat.cast_lt]
  split_ifs with h0 hup hfifteen hbottom
  · rfl
  · rw [hfifteen]; rfl
  · rw [BitVec.toNat_add, toNat_one]; omega
  · rw [hbottom]; rfl
  · rw [BitVec.toNat_sub, toNat_one]; omega

theorem useHintInt_bounds (a h : Nat) : 0 ≤ useHintInt a h ∧ useHintInt a h < 16 := by
  have hb := highBits_bounds a
  rw [highBits] at hb
  unfold useHintInt
  split_ifs <;> omega

/-! ### The hint law (R77 item 4) -/

/-- R77 item 4: a centred `b` of at most half a bucket moves `a` at most one bucket, up only when the residual of `a` is
positive and down only when it is not. A sum past Q or below 0 moves between buckets 16 and 0, whose high bits agree. -/
theorem highBits_add {a b : Nat} (ha : a < Q) (hb : b < Q) (hc : b ≤ GAMMA2 ∨ Q - GAMMA2 ≤ b)
    (hne : highBits a ≠ highBits ((a + b) % Q)) :
    highBits ((a + b) % Q) = if (decompInt a).2 > Q then (highBits a + 1) % 16 else (highBits a - 1) % 16 := by
  have hlt : (a + b) % Q < Q := Nat.mod_lt _ (by decide)
  obtain ⟨k, hk0, hk16, hak, hdec⟩ := decompInt_canonical ha
  obtain ⟨l, hl0, hl16, hal, hdec'⟩ := decompInt_canonical hlt
  have hr := cmod_bounds a (m := ALPHA) (by decide)
  have hr' := cmod_bounds ((a + b) % Q : Nat) (m := ALPHA) (by decide)
  have hG : GAMMA2 = 261888 := rfl
  simp only [highBits, hdec, hdec'] at hne ⊢
  rw [hG] at hc
  rw [alpha_eq] at *
  unfold Q at *
  obtain hpos | hneg := hc <;> by_cases hwrap : a + b < 8380417
  · have hl : l = k + 1 := by omega
    rw [if_pos (by omega), hl, Int.emod_add_emod]
  · have hfold : k = 16 ∧ l = 0 := by omega
    omega
  · have hfold : k = 0 ∧ l = 16 := by omega
    omega
  · have hl : l = k - 1 := by omega
    rw [if_neg (by omega), hl, Int.emod_sub_emod]

theorem useHintInt_hintNat {a b : Nat} (ha : a < Q) (hb : b < Q) (hc : b ≤ GAMMA2 ∨ Q - GAMMA2 ≤ b) :
    useHintInt a (hintNat a b) = highBits ((a + b) % Q) := by
  have hwrap : (a + b) % 2 ^ 32 = a + b := by
    unfold Q at *
    omega
  rw [hintNat, hwrap]
  by_cases h : highBits a = highBits ((a + b) % Q)
  · rw [if_neg (not_not.mpr h), useHintInt, if_pos rfl, ← h, highBits]
  · rw [if_pos h, useHintInt, if_neg one_ne_zero, highBits_add ha hb hc h, highBits]

/-! ### P.MKHINT (R84) -/

theorem toNat_hint_lane (s : State) (rs1 rs2 : PReg) (k : Fin 256) :
    ((zipLanes hint (s.readP rs1) (s.readP rs2))[k.val]).toNat = hintNat (coeffs s rs1 k) (coeffs s rs2 k) := by
  rw [getElem_zipLanes, getElem_readP, getElem_readP, toNat_hint]
  rfl

theorem hintCount_eq_sum (h : Lanes) : hintCount h = ∑ k : Fin 256, (h[k.val]).toNat := by
  have hlist : h.toList.map BitVec.toNat = List.ofFn fun k : Fin 256 => (h[k.val]).toNat :=
    List.ext_getElem (by rw [List.length_map, Vector.length_toList, List.length_ofFn]) fun k _ _ => by
      rw [List.getElem_map, Vector.getElem_toList, List.getElem_ofFn]
  rw [hintCount, hlist, List.sum_ofFn]

/-! ### The statements -/

/-- Settles O10: P2R's two halves are those of R73 for every word. -/
theorem sP2rResult : Obligations.SP2rResult := by
  intro rd rs1 re s hne
  obtain ⟨t, ht, hframe, hhigh, hlow⟩ := exec_scalarSplit (i := .sP2r rd rs1 re) (s := s) hne rfl
  exact ⟨t, ht, hframe, by rw [hhigh, toNat_p2r_high], by rw [hlow, toNat_p2r_low]⟩

/-- Settles O11: below Q nothing wraps, and the low part of any such pair is the centred remainder. -/
theorem sP2rDecomposesCanonical : Obligations.SP2rDecomposesCanonical := by
  intro rd rs1 re s hne ha
  obtain ⟨t, ht, -, hhigh, hlow⟩ := sP2rResult rd rs1 re s hne
  refine ⟨t, ht, ?_⟩
  have hc := cmod_bounds (s.readS rs1).toNat (m := 2 ^ 14) (by decide)
  have hdvd := dvd_sub_cmod (s.readS rs1).toNat (2 ^ 14)
  unfold Q at *
  refine ⟨by omega, by omega, by omega, by omega, by omega, fun b1 b0 h hlo hhi => ?_⟩
  constructor <;> omega

/-- Settles O12: DECOMP's two halves are those of the integer steps for every word. -/
theorem sDecompResult : Obligations.SDecompResult := by
  intro rd rs1 re s hne
  obtain ⟨t, ht, hframe, hhigh, hlow⟩ := exec_scalarSplit (i := .sDecomp rd rs1 re) (s := s) hne rfl
  refine ⟨t, ht, hframe, ?_⟩
  rw [hhigh, hlow]
  exact ⟨toNat_decomp_high _, toNat_decomp_low _, Nat.le_of_lt_succ (decomp_high_lt _)⟩

/-- Settles O13: the boundary bucket is k = 16, where 16·ALPHA = Q - 1. -/
theorem sDecompDecomposesCanonical : Obligations.SDecompDecomposesCanonical := by
  intro rd rs1 re s hne ha
  obtain ⟨t, ht, -, hhigh, hlow, -⟩ := sDecompResult rd rs1 re s hne
  obtain ⟨k, h0, h16, hsum, hdec⟩ := decompInt_canonical ha
  have hc := cmod_bounds (s.readS rs1).toNat (m := ALPHA) (by decide)
  rw [hdec] at hhigh hlow
  refine ⟨t, ht, ?_⟩
  dsimp only
  rw [hhigh, hlow]
  unfold Q
  rw [alpha_eq] at *
  refine ⟨fun _ => ⟨by omega, by omega⟩, fun _ => ⟨by omega, by omega⟩, by omega, by omega, by omega⟩

/-- Settles O14: HINT on words is HINT on numbers. -/
theorem sMkhintResult : Obligations.SMkhintResult := by
  intro rd rs1 rs2 s
  obtain ⟨t, ht, hframe, hres⟩ := exec_scalarBinary (i := .sMkhint rd rs1 rs2) (s := s) rfl
  exact ⟨t, ht, hframe, by rw [hres, toNat_hint]⟩

/-- Settles O15: USEHINT on words is USEHINT on integers. -/
theorem sUsehintResult : Obligations.SUsehintResult := by
  intro rd rs1 rs2 s
  obtain ⟨t, ht, hframe, hres⟩ := exec_scalarBinary (i := .sUsehint rd rs1 rs2) (s := s) rfl
  have hval : ((t.readS rd).toNat : Int) = useHintInt (s.readS rs1).toNat (s.readS rs2).toNat := by
    rw [hres, toNat_useHint]
  have hlt := (useHintInt_bounds (s.readS rs1).toNat (s.readS rs2).toNat).2
  exact ⟨t, ht, hframe, hval, by omega⟩

/-- Settles O16: the hint law of the two functions, run as two commands. -/
theorem hintRecoversHighBits : Obligations.HintRecoversHighBits := by
  intro s ra rb rh rd hne ha hb hc
  obtain ⟨t, ht, ⟨-, hkeep, -⟩, hhint⟩ := sMkhintResult rh ra rb s
  obtain ⟨u, hu, -, huse, -⟩ := sUsehintResult rd ra rh t
  refine ⟨u, by simp only [execAll, ht, hu], ?_⟩
  rw [huse, hhint, hkeep ra (List.mem_singleton.not.mpr hne.symm), useHintInt_hintNat ha hb hc]

/-- Settles O20: each lane is HINT, and the count is the sum of the 256 lanes. -/
theorem pMkhintResult : Obligations.PMkhintResult := by
  intro rd rs1 rs2 re s
  refine ⟨_, rfl, ⟨exec_next (i := .pMkhint rd rs1 rs2 re) rfl, fun j hj => ?_, fun q hq k => ?_, fun q hq k => ?_⟩,
    fun k => ?_, ?_⟩
  · rw [readS_complete, readS_writeS_other _ (List.mem_singleton.not.mp hj), readS_writeP, readS_consume]
  · rw [coeff_complete, coeff_writeS, coeff_writeP, if_neg (List.mem_singleton.not.mp hq), coeff_consume]
  · rw [coeff_complete, coeff_writeS, coeff_writeP, if_pos (List.mem_singleton.mp hq), Coeff.isUnwritten]
  · rw [coeffs, readCoeff_complete, readCoeff_writeS, readCoeff_writeP, if_pos rfl, toNat_hint_lane]
  · have hlanes : hintCount (zipLanes hint (s.readP rs1) (s.readP rs2)) =
        ∑ k : Fin 256, hintNat (coeffs s rs1 k) (coeffs s rs2 k) :=
      (hintCount_eq_sum _).trans (Finset.sum_congr rfl fun k _ => toNat_hint_lane s rs1 rs2 k)
    rw [readS_complete, readS_writeS_same, ← Int.natCast_inj, toNat_wrap32, hlanes]
    rfl

end Sys2Proof.Proofs

/-! PROOFS. The loops of the two transforms (42_ntt.md R86 to R93): a level of the loop as one equation for every lane,
the model's list of lanes after a level, and the commands P.NTT and P.INVNTT as the loops. -/

namespace Sys2Proof.Proofs

open Sys2Proof.Machine Sys2Proof.SpecMath
open Sys2Proof.Config (Q ZETAS ZETAS_INV NTT_OFFSET INV_OFFSET F_INV)

/-! ### A level on numbers -/

/-- A butterfly on numbers: from the twiddle, the lower and the upper lane to the new lower and the new upper lane. -/
abbrev NatButterfly := Nat → Nat → Nat → Nat × Nat

/-- The butterfly of R89 on numbers. -/
def nttPair : NatButterfly := fun z lo hi =>
  ((lo + mredcNat (z * hi)) % 2 ^ 32, (((lo : Int) + 2 * Q - mredcNat (z * hi)) % 2 ^ 32).toNat)

/-- The butterfly of R90 on numbers. -/
def inttPair : NatButterfly := fun z lo hi =>
  ((lo + hi) % 2 ^ 32, mredcNat (z * (((lo : Int) + 256 * Q - hi) % 2 ^ 32).toNat))

/-- The loop body that a butterfly makes at lane j: both lanes of the pair are written from their old values. -/
def pairBody (g : NatButterfly) (z len : Nat) (p : Nat → Nat) (j : Nat) : Nat → Nat :=
  Function.update (Function.update p (j + len) (g z (p j) (p (j + len))).2) j (g z (p j) (p (j + len))).1

theorem nttBody_eq_pairBody (z len : Nat) : nttBody z len = pairBody nttPair z len := rfl

/-- R90 writes the lower lane first; the two lanes differ, so the order does not matter. -/
theorem inttBody_eq_pairBody (z : Nat) {len : Nat} (hlen : 0 < len) : inttBody z len = pairBody inttPair z len := by
  funext p j
  exact Function.update_comm (by omega) _ _ _

/-- One level, lane by lane: lane j lies in block j / (2·len), in its lower or its upper half; from block number
`blocks` on nothing changes. -/
def levelMap (g : NatButterfly) (tw : Nat → Nat) (len blocks k : Nat) (p : Nat → Nat) (j : Nat) : Nat :=
  if j / (2 * len) < blocks then
    if j % (2 * len) < len then (g (tw (k + j / (2 * len))) (p j) (p (j + len))).1
    else (g (tw (k + j / (2 * len))) (p (j - len)) (p j)).2
  else p j

section

variable (g : NatButterfly) (tw : Nat → Nat) {len blocks : Nat} (k : Nat) (p : Nat → Nat)

theorem levelMap_low {b j : Nat} (hb : b < blocks) (hj : j < len) : levelMap g tw len blocks k p (2 * len * b + j) =
    (g (tw (k + b)) (p (2 * len * b + j)) (p (2 * len * b + j + len))).1 := by
  have hdiv : (2 * len * b + j) / (2 * len) = b := by
    rw [Nat.mul_add_div (by omega), Nat.div_eq_of_lt (by omega), Nat.add_zero]
  have hmod : (2 * len * b + j) % (2 * len) = j := by rw [Nat.mul_add_mod, Nat.mod_eq_of_lt (by omega)]
  rw [levelMap, hdiv, hmod, if_pos hb, if_pos hj]

theorem levelMap_high {b j : Nat} (hb : b < blocks) (hj : j < len) :
    levelMap g tw len blocks k p (2 * len * b + j + len) =
      (g (tw (k + b)) (p (2 * len * b + j)) (p (2 * len * b + j + len))).2 := by
  have hdiv : (2 * len * b + j + len) / (2 * len) = b := by
    rw [Nat.add_assoc, Nat.mul_add_div (by omega), Nat.div_eq_of_lt (by omega), Nat.add_zero]
  have hmod : (2 * len * b + j + len) % (2 * len) = j + len := by
    rw [Nat.add_assoc, Nat.mul_add_mod, Nat.mod_eq_of_lt (by omega)]
  rw [levelMap, hdiv, hmod, if_pos hb, if_neg (by omega), Nat.add_sub_cancel]

/-- A lane past the blocks stays. -/
theorem levelMap_outside {j : Nat} (hlen : 0 < len) (hj : 2 * len * blocks ≤ j) :
    levelMap g tw len blocks k p j = p j := by
  rw [levelMap, if_neg (Nat.not_lt.mpr ((Nat.le_div_iff_mul_le (by omega)).mpr (by rwa [Nat.mul_comm])))]

/-- One more block changes no lane of the blocks before it. -/
theorem levelMap_succ_of_lt {j : Nat} (hj : j < 2 * len * blocks) :
    levelMap g tw len (blocks + 1) k p j = levelMap g tw len blocks k p j := by
  have hb : j / (2 * len) < blocks := Nat.div_lt_of_lt_mul hj
  rw [levelMap, levelMap, if_pos hb, if_pos (by omega)]

/-- A lane of the blocks lies in the lower or in the upper half of one of them. -/
theorem lane_cases {j : Nat} (hj : j < 2 * len * blocks) :
    ∃ b i, b < blocks ∧ i < len ∧ (j = 2 * len * b + i ∨ j = 2 * len * b + i + len) := by
  have hpos : 0 < 2 * len := Nat.pos_of_ne_zero fun h => by simp [h] at hj
  have hdiv := Nat.div_add_mod j (2 * len)
  have hmod := Nat.mod_lt j hpos
  obtain h | h := Nat.lt_or_ge (j % (2 * len)) len
  · exact ⟨j / (2 * len), j % (2 * len), Nat.div_lt_of_lt_mul hj, h, .inl hdiv.symm⟩
  · exact ⟨j / (2 * len), j % (2 * len) - len, Nat.div_lt_of_lt_mul hj, by omega, .inr (by omega)⟩

end

/-! ### The loops of R89 and R90 -/

section

variable {g : NatButterfly} {body : Nat → Nat → (Nat → Nat) → Nat → Nat → Nat} {tw : Nat → Nat} {len : Nat}

/-- The first n rounds of the inner loop, n up to len: each lane of the two runs is written once, from old values. -/
theorem foldl_pairBody (z : Nat) (p : Nat → Nat) (start : Nat) {n : Nat} (hn : n ≤ len) :
    (List.range' start n).foldl (pairBody g z len) p = fun j =>
      if start ≤ j ∧ j < start + n then (g z (p j) (p (j + len))).1
      else if start + len ≤ j ∧ j < start + len + n then (g z (p (j - len)) (p j)).2 else p j := by
  induction n with
  | zero =>
    funext j
    rw [if_neg (by omega), if_neg (by omega)]
    rfl
  | succ n ih =>
    funext j
    rw [List.range'_1_concat, List.foldl_append, ih (by omega), List.foldl_cons, List.foldl_nil, pairBody]
    have hlo : ¬ (start ≤ start + n ∧ start + n < start + n) := by omega
    have hlo' : ¬ (start + len ≤ start + n ∧ start + n < start + len + n) := by omega
    have hhi : ¬ (start ≤ start + n + len ∧ start + n + len < start + n) := by omega
    have hhi' : ¬ (start + len ≤ start + n + len ∧ start + n + len < start + len + n) := by omega
    simp only [if_neg hlo, if_neg hlo', if_neg hhi, if_neg hhi', Function.update_apply]
    by_cases hj : j = start + n
    · rw [if_pos hj, if_pos (by omega), hj]
    · rw [if_neg hj]
      by_cases hj' : j = start + n + len
      · rw [if_pos hj', if_neg (by omega), if_pos (by omega), hj', Nat.add_sub_cancel]
      · have hlow : (start ≤ j ∧ j < start + (n + 1)) ↔ (start ≤ j ∧ j < start + n) := by omega
        have hhigh : (start + len ≤ j ∧ j < start + len + (n + 1)) ↔ (start + len ≤ j ∧ j < start + len + n) := by omega
        simp only [if_neg hj', hlow, hhigh]

/-- The loop over the blocks of one level. -/
theorem foldl_blocks (hbody : ∀ z, body z len = pairBody g z len) (hlen : 0 < len) (blocks k : Nat) (p : Nat → Nat) :
    ((List.range blocks).map fun b => 2 * len * b).foldl (fun pk start =>
      ((List.range' start len).foldl (body (tw pk.2) len) pk.1, pk.2 + 1)) (p, k) =
      (levelMap g tw len blocks k p, k + blocks) := by
  induction blocks with
  | zero => simp [levelMap, funext_iff]
  | succ blocks ih =>
    rw [List.range_succ, List.map_append, List.foldl_append, ih, List.map_cons, List.map_nil, List.foldl_cons,
      List.foldl_nil, hbody, foldl_pairBody _ _ _ le_rfl]
    refine Prod.ext (funext fun j => ?_) rfl
    dsimp only
    have hout {j : Nat} := levelMap_outside g tw k p (blocks := blocks) (j := j) hlen
    by_cases hlow : 2 * len * blocks ≤ j ∧ j < 2 * len * blocks + len
    · obtain ⟨i, rfl⟩ := Nat.exists_eq_add_of_le hlow.1
      rw [if_pos hlow, hout (by omega), hout (by omega), levelMap_low g tw k p (Nat.lt_succ_self blocks) (by omega)]
    · rw [if_neg hlow]
      by_cases hhigh : 2 * len * blocks + len ≤ j ∧ j < 2 * len * blocks + len + len
      · obtain ⟨i, rfl⟩ := Nat.exists_eq_add_of_le hhigh.1
        rw [if_pos hhigh, hout (by omega), hout (by omega),
          show 2 * len * blocks + len + i - len = 2 * len * blocks + i by omega,
          show 2 * len * blocks + len + i = 2 * len * blocks + i + len by omega,
          levelMap_high g tw k p (Nat.lt_succ_self blocks) (by omega)]
      · rw [if_neg hhigh]
        obtain hj | hj := Nat.lt_or_ge j (2 * len * blocks)
        · exact (levelMap_succ_of_lt g tw k p hj).symm
        · rw [hout hj, levelMap_outside g tw k p hlen (by rw [Nat.mul_succ]; omega)]

theorem passLoop_nil (body : Nat → Nat → (Nat → Nat) → Nat → Nat → Nat) (tw p : Nat → Nat) (k : Nat) :
    passLoop body tw [] p k = (p, k) := rfl

/-- The loop over the levels, one level more. -/
theorem passLoop_cons (hbody : ∀ z, body z len = pairBody g z len) (hlen : 0 < len) (lens : List Nat)
    (p : Nat → Nat) (k : Nat) : passLoop body tw (len :: lens) p k =
      passLoop body tw lens (levelMap g tw len (256 / (2 * len)) k p) (k + 256 / (2 * len)) := by
  rw [passLoop, List.foldl_cons, foldl_blocks hbody hlen, passLoop]

end

/-! ### The model's list of lanes -/

/-- A list of lanes as the array of a loop. -/
def laneNumbers (p : List Word) (j : Nat) : Nat := (p.getD j 0).toNat

theorem laneNumbers_of_le {p : List Word} {j : Nat} (h : p.length ≤ j) : laneNumbers p j = 0 := by
  rw [laneNumbers, List.getD_eq_default _ _ h]
  rfl

theorem laneNumbers_append_left {p : List Word} (q : List Word) {j : Nat} (h : j < p.length) :
    laneNumbers (p ++ q) j = laneNumbers p j := by rw [laneNumbers, List.getD_append _ _ _ _ h, laneNumbers]

theorem laneNumbers_append_right (p q : List Word) (j : Nat) :
    laneNumbers (p ++ q) (p.length + j) = laneNumbers q j := by
  rw [laneNumbers, List.getD_append_right _ _ _ _ (Nat.le_add_right _ _), Nat.add_sub_cancel_left, laneNumbers]

theorem laneNumbers_take {p : List Word} {n j : Nat} (h : j < n) : laneNumbers (p.take n) j = laneNumbers p j := by
  simp [laneNumbers, List.getD_eq_getElem?_getD, h]

theorem laneNumbers_drop (p : List Word) (n j : Nat) : laneNumbers (p.drop n) j = laneNumbers p (n + j) := by
  simp [laneNumbers, List.getD_eq_getElem?_getD]

/-- The model's butterfly is the butterfly `g` on numbers. -/
def Refines (f : Butterfly) (g : NatButterfly) : Prop :=
  ∀ z lo hi, (f z lo hi).1.toNat = (g z.toNat lo.toNat hi.toNat).1 ∧
    (f z lo hi).2.toNat = (g z.toNat lo.toNat hi.toNat).2

section

variable {f : Butterfly} {g : NatButterfly} {len : Nat}

theorem length_blockPass (z : Word) {p : List Word} (hp : p.length = 2 * len) :
    (blockPass f z len p).length = 2 * len := by
  simp only [blockPass, List.length_append, List.length_map, List.length_zipWith, List.length_take,
    List.length_drop, hp]
  omega

theorem length_levelPass (table : List Word) (blocks k : Nat) {p : List Word} (hp : p.length = 2 * len * blocks) :
    (levelPass f table len blocks k p).length = 2 * len * blocks := by
  induction blocks generalizing k p with
  | zero => rfl
  | succ blocks ih =>
    rw [Nat.mul_succ] at hp
    rw [levelPass, List.length_append, length_blockPass _ (by rw [List.length_take]; omega),
      ih _ (by rw [List.length_drop]; omega), Nat.mul_succ, Nat.add_comm]

/-- A list of pairs written as the list of the first halves and then of the second: where pair j lies. -/
theorem laneNumbers_halves {r : List (Word × Word)} {j : Nat} {x : Word × Word} (h : r[j]? = some x) :
    laneNumbers (r.map Prod.fst ++ r.map Prod.snd) j = x.1.toNat ∧
    laneNumbers (r.map Prod.fst ++ r.map Prod.snd) (r.length + j) = x.2.toNat := by
  have hj : j < r.length := (List.getElem?_eq_some_iff.mp h).1
  constructor
  · rw [laneNumbers_append_left _ (by rwa [List.length_map])]
    simp only [laneNumbers, List.getD_eq_getElem?_getD, List.getElem?_map, h, Option.map_some, Option.getD_some]
  · have hright := laneNumbers_append_right (r.map Prod.fst) (r.map Prod.snd) j
    rw [List.length_map] at hright
    rw [hright]
    simp only [laneNumbers, List.getD_eq_getElem?_getD, List.getElem?_map, h, Option.map_some, Option.getD_some]

theorem laneNumbers_blockPass (h : Refines f g) (z : Word) {p : List Word} (hp : p.length = 2 * len) {j : Nat}
    (hj : j < len) :
    laneNumbers (blockPass f z len p) j = (g z.toNat (laneNumbers p j) (laneNumbers p (j + len))).1 ∧
    laneNumbers (blockPass f z len p) (j + len) = (g z.toNat (laneNumbers p j) (laneNumbers p (j + len))).2 := by
  have hlo : j < p.length := by omega
  have hhi : len + j < p.length := by omega
  have hpair : (List.zipWith (f z) (p.take len) (p.drop len))[j]? = some (f z (p.getD j 0) (p.getD (len + j) 0)) := by
    simp [List.getElem?_zipWith, hj, hlo, hhi]
  have hlen : (List.zipWith (f z) (p.take len) (p.drop len)).length = len := by
    rw [List.length_zipWith, List.length_take, List.length_drop]
    omega
  have hhalves := laneNumbers_halves hpair
  rw [hlen, (h _ _ _).1, (h _ _ _).2] at hhalves
  rw [Nat.add_comm j len]
  exact hhalves

/-- The two lanes of a pair in block b after a level of the model. -/
theorem laneNumbers_levelPass_pair (h : Refines f g) (table : List Word) {blocks : Nat} (k : Nat) {p : List Word}
    (hp : p.length = 2 * len * blocks) {b j : Nat} (hb : b < blocks) (hj : j < len) :
    laneNumbers (levelPass f table len blocks k p) (2 * len * b + j) =
      (g (table.getD (k + b) 0).toNat (laneNumbers p (2 * len * b + j)) (laneNumbers p (2 * len * b + j + len))).1 ∧
    laneNumbers (levelPass f table len blocks k p) (2 * len * b + j + len) =
      (g (table.getD (k + b) 0).toNat (laneNumbers p (2 * len * b + j)) (laneNumbers p (2 * len * b + j + len))).2 := by
  induction blocks generalizing k p b with
  | zero => omega
  | succ blocks ih =>
    rw [Nat.mul_succ] at hp
    have htake : (p.take (2 * len)).length = 2 * len := by rw [List.length_take]; omega
    have hfirst := length_blockPass (f := f) (table.getD k 0) htake
    rw [levelPass]
    cases b with
    | zero =>
      obtain ⟨h1, h2⟩ := laneNumbers_blockPass h (table.getD k 0) htake hj
      rw [laneNumbers_take (by omega), laneNumbers_take (by omega)] at h1 h2
      rw [Nat.mul_zero, Nat.zero_add, Nat.add_zero, laneNumbers_append_left _ (by omega),
        laneNumbers_append_left _ (by omega)]
      exact ⟨h1, h2⟩
    | succ b =>
      have hrest := ih (k + 1) (p := p.drop (2 * len)) (by rw [List.length_drop]; omega) (b := b) (by omega)
      have hright (i : Nat) := laneNumbers_append_right (blockPass f (table.getD k 0) len (p.take (2 * len)))
        (levelPass f table len blocks (k + 1) (p.drop (2 * len))) i
      rw [hfirst] at hright
      rw [show 2 * len * (b + 1) + j = 2 * len + (2 * len * b + j) by rw [Nat.mul_succ]; omega,
        hright, Nat.add_assoc (2 * len), hright, show k + (b + 1) = k + 1 + b by omega]
      simpa only [laneNumbers_drop, Nat.add_assoc] using hrest

/-- A level of the model is a level on numbers, for the twiddles it reads. -/
theorem laneNumbers_levelPass (h : Refines f g) {table : List Word} {tw : Nat → Nat} {blocks k : Nat} {p : List Word}
    (hlen : 0 < len) (hp : p.length = 2 * len * blocks)
    (htw : ∀ b < blocks, (table.getD (k + b) 0).toNat = tw (k + b)) :
    laneNumbers (levelPass f table len blocks k p) = levelMap g tw len blocks k (laneNumbers p) := by
  funext j
  obtain hj | hj := Nat.lt_or_ge j (2 * len * blocks)
  · obtain ⟨b, i, hb, hi, rfl | rfl⟩ := lane_cases hj
    · rw [levelMap_low g tw k _ hb hi, ← htw b hb, (laneNumbers_levelPass_pair h table k hp hb hi).1]
    · rw [levelMap_high g tw k _ hb hi, ← htw b hb, (laneNumbers_levelPass_pair h table k hp hb hi).2]
  · rw [levelMap_outside g tw k _ hlen hj, laneNumbers_of_le (hp.trans_le hj),
      laneNumbers_of_le ((length_levelPass table blocks k hp).trans_le hj)]

/-- Block lengths of whole levels of 256 lanes. -/
def WholeLevels (lens : List Nat) : Prop := ∀ len ∈ lens, 0 < len ∧ 2 * len * (256 / (2 * len)) = 256

theorem levels_cons (table : List Word) (lens : List Nat) (k : Nat) (p : List Word) :
    levels f table (len :: lens) k p =
      levels f table lens (k + 256 / (2 * len)) (levelPass f table len (256 / (2 * len)) k p) := rfl

theorem length_levels (table : List Word) {lens : List Nat} (hlens : WholeLevels lens) (k : Nat) {p : List Word}
    (hp : p.length = 256) : (levels f table lens k p).length = 256 := by
  induction lens generalizing k p with
  | nil => exact hp
  | cons len lens ih =>
    obtain ⟨⟨-, hwhole⟩, hrest⟩ := List.forall_mem_cons.mp hlens
    exact ih hrest _ ((length_levelPass table _ k (hp.trans hwhole.symm)).trans hwhole)

/-- The levels of the model are the loop of the spec, for the twiddles they read. -/
theorem laneNumbers_levels (h : Refines f g) {body : Nat → Nat → (Nat → Nat) → Nat → Nat → Nat}
    (hbody : ∀ z len, 0 < len → body z len = pairBody g z len) {table : List Word} {tw : Nat → Nat} {lens : List Nat}
    (hlens : WholeLevels lens) {k : Nat} {p : List Word} (hp : p.length = 256)
    (htw : ∀ i, k ≤ i → i < k + (lens.map fun len => 256 / (2 * len)).sum → (table.getD i 0).toNat = tw i) :
    laneNumbers (levels f table lens k p) = (passLoop body tw lens (laneNumbers p) k).1 := by
  induction lens generalizing k p with
  | nil => rfl
  | cons len lens ih =>
    obtain ⟨⟨hlen, hwhole⟩, hrest⟩ := List.forall_mem_cons.mp hlens
    rw [List.map_cons, List.sum_cons] at htw
    have hlevel := laneNumbers_levelPass h hlen (hp.trans hwhole.symm)
      (fun b hb => htw (k + b) (Nat.le_add_right k b) (by omega))
    rw [levels_cons, passLoop_cons (hbody · len hlen) hlen, ← hlevel]
    exact ih hrest ((length_levelPass table _ k (hp.trans hwhole.symm)).trans hwhole)
      (fun i hi hlt => htw i (le_of_add_le_left hi) (by rwa [Nat.add_assoc] at hlt))

end

/-! ### The two transforms of the model -/

theorem toNat_ntt_offset : NTT_OFFSET.toNat = 2 * Q := rfl

theorem toNat_inv_offset : INV_OFFSET.toNat = 256 * Q := rfl

/-- Adding an offset before subtracting: the wrapped word is the wrapped integer. -/
theorem toNat_add_sub (a b c : Word) :
    (a + b - c).toNat = (((a.toNat : Int) + b.toNat - c.toNat) % 2 ^ 32).toNat := by
  have ha := a.isLt
  have hb := b.isLt
  have hc := c.isLt
  rw [BitVec.toNat_sub, BitVec.toNat_add]
  omega

theorem refines_forwardButterfly : Refines forwardButterfly nttPair := by
  intro z lo hi
  constructor
  · rw [forwardButterfly, BitVec.toNat_add, toNat_mmul]
    rfl
  · rw [forwardButterfly, toNat_add_sub, toNat_mmul, toNat_ntt_offset]
    rfl

theorem refines_inverseButterfly : Refines inverseButterfly inttPair := by
  intro z lo hi
  constructor
  · rw [inverseButterfly, BitVec.toNat_add]
    rfl
  · rw [inverseButterfly, toNat_mmul, toNat_add_sub, toNat_inv_offset]
    rfl

theorem getElem_lanesOf {p : List Word} (hp : p.length = 256) (k : Fin 256) : (lanesOf p)[k.val] = p.getD k.val 0 := by
  simp [lanesOf, hp]

theorem wholeLevels_down : WholeLevels [128, 64, 32, 16, 8, 4, 2, 1] := by unfold WholeLevels; decide

theorem wholeLevels_up : WholeLevels [1, 2, 4, 8, 16, 32, 64, 128] := by unfold WholeLevels; decide

theorem toNat_ofNat_twiddle {n : Nat} (h : n ≤ Q) : (BitVec.ofNat 32 n).toNat = n := by
  rw [BitVec.toNat_ofNat, Nat.mod_eq_of_lt (lt_of_le_of_lt h (by decide))]

theorem zeta_lt (k : Nat) : zeta k < Q := by
  unfold zeta
  split
  · decide
  · exact Nat.mod_lt _ (by decide)

theorem zetaInv_le (m : Nat) : zetaInv m ≤ Q := Nat.sub_le Q _

theorem toNat_zetas {k : Nat} (hk : k < 256) : (ZETAS.getD k 0).toNat = zeta k := by
  rw [zetas_getD hk, toNat_ofNat_twiddle (zeta_lt k).le]

theorem toNat_zetasInv {m : Nat} (hm : m < 255) : (ZETAS_INV.getD m 0).toNat = zetaInv m := by
  rw [zetasInv_getD hm, toNat_ofNat_twiddle (zetaInv_le m)]

/-- NTT on words is the loop of R89: its 255 twiddles are those of R86's formula. -/
theorem toNat_ntt (a : Lanes) (k : Fin 256) : ((ntt a)[k.val]).toNat = nttLoop (laneNumbers a.toList) k.val := by
  rw [ntt, getElem_lanesOf (length_levels ZETAS wholeLevels_down 1 (by simp))]
  exact congrFun (laneNumbers_levels refines_forwardButterfly (fun z len _ => nttBody_eq_pairBody z len)
    wholeLevels_down (by simp) fun i _ hlt => toNat_zetas hlt) k.val

/-- INTT ends with a scaling of each lane. -/
theorem getElem_intt (a : Lanes) (k : Fin 256) : (intt a)[k.val] =
    mmul F_INV ((levels inverseButterfly ZETAS_INV [1, 2, 4, 8, 16, 32, 64, 128] 0 a.toList).getD k.val 0) := by
  have hlen := length_levels (f := inverseButterfly) ZETAS_INV wholeLevels_up 0 (p := a.toList) (by simp)
  rw [intt, getElem_lanesOf (by rw [List.length_map, hlen])]
  have hk : k.val < (levels inverseButterfly ZETAS_INV [1, 2, 4, 8, 16, 32, 64, 128] 0 a.toList).length :=
    k.isLt.trans_eq hlen.symm
  rw [List.getD_eq_getElem _ _ (by rwa [List.length_map]), List.getElem_map, List.getD_eq_getElem _ _ hk]

/-- INTT on words is the loop of R90: its 255 twiddles are those of R87's closed form. -/
theorem toNat_intt (a : Lanes) (k : Fin 256) : ((intt a)[k.val]).toNat = inttLoop (laneNumbers a.toList) k.val := by
  have hlevels := laneNumbers_levels refines_inverseButterfly (fun z _ => inttBody_eq_pairBody z) wholeLevels_up
    (p := a.toList) (k := 0) (by simp) fun i _ hlt => toNat_zetasInv (by simpa using hlt)
  rw [getElem_intt, toNat_mmul, inttLoop, ← hlevels]
  rfl

/-! ### The commands -/

theorem laneNumbers_readP (s : State) (r : PReg) : laneNumbers (s.readP r).toList = laneArray s r := by
  funext j
  by_cases hj : j < 256
  · simp [laneNumbers, laneArray, coeffs, hj]
  · rw [laneNumbers_of_le (by simpa using hj), laneArray, dif_neg hj]

theorem coeffs_polyUnary (g : Lanes → Lanes) (rd rs1 : PReg) (s : State) (k : Fin 256) :
    coeffs (polyUnary g rd rs1 s) rd k = ((g (s.readP rs1))[k.val]).toNat := by
  rw [coeffs, readCoeff_polyUnary, if_pos rfl]

/-- Settles O21: NTT on words is the loop, written to P[rd] in one step. -/
theorem pNttRunsLoop : Obligations.PNttRunsLoop := by
  intro rd rs1 s
  refine ⟨_, rfl, polyFrame_of_coeff (i := .pNtt rd rs1) rfl (fun _ => rfl) (coeff_polyUnary s ntt rd rs1), fun k => ?_⟩
  rw [coeffs_polyUnary, toNat_ntt, laneNumbers_readP]

/-- Settles O22: INTT on words is the loop, written to P[rd] in one step. -/
theorem pInvnttRunsLoop : Obligations.PInvnttRunsLoop := by
  intro rd rs1 s
  refine ⟨_, rfl, polyFrame_of_coeff (i := .pInvntt rd rs1) rfl (fun _ => rfl) (coeff_polyUnary s intt rd rs1),
    fun k => ?_⟩
  rw [coeffs_polyUnary, toNat_intt, laneNumbers_readP]

/-- Settles O24: the last operation on each lane is MMUL by F_INV, which is below Q. -/
theorem pInvnttOutputBound : Obligations.PInvnttOutputBound := by
  intro rd rs1 s
  refine ⟨_, rfl, fun k => ?_⟩
  rw [coeffs_polyUnary, getElem_intt, toNat_mmul]
  exact (mmulNat_spec (mul_lt_of_factors (BitVec.isLt _) (.inl (by decide)))).1

end Sys2Proof.Proofs

/-! PROOFS. The levels of the two loops by number, and the growth of the forward transform's lanes (42_ntt.md R89). -/

namespace Sys2Proof.Proofs

open Sys2Proof.Machine Sys2Proof.SpecMath
open Sys2Proof.Config (Q)

/-! ### The eight levels by number -/

/-- The first n of a sequence of levels. -/
def stages (level : Nat → (Nat → Nat) → Nat → Nat) : Nat → (Nat → Nat) → Nat → Nat
  | 0, p => p
  | n + 1, p => level n (stages level n p)

/-- Level l of R89: 2^l blocks, whose twiddle numbers start at 2^l. -/
def forwardLevel (l : Nat) : (Nat → Nat) → Nat → Nat := levelMap nttPair zeta (2 ^ (7 - l)) (2 ^ l) (2 ^ l)

/-- Level l of R90: 128/2^l blocks, after the 256 - 256/2^l twiddles of the levels before it. -/
def inverseLevel (l : Nat) : (Nat → Nat) → Nat → Nat :=
  levelMap inttPair zetaInv (2 ^ l) (128 / 2 ^ l) (256 - 256 / 2 ^ l)

theorem nttLoop_eq_stages (a : Nat → Nat) : nttLoop a = stages forwardLevel 8 a := by
  simp only [nttLoop, passLoop_cons (fun z => nttBody_eq_pairBody z _) (Nat.zero_lt_succ _), passLoop_nil, stages,
    forwardLevel]
  norm_num

theorem inttLoop_eq_stages (a : Nat → Nat) (j : Nat) :
    inttLoop a j = mredcNat (41978 * stages inverseLevel 8 a j) := by
  simp only [inttLoop, passLoop_cons (fun z => inttBody_eq_pairBody z (Nat.zero_lt_succ _)) (Nat.zero_lt_succ _),
    passLoop_nil, stages, inverseLevel]
  norm_num

theorem forwardLevel_shape : ∀ l < 8, 2 * 2 ^ (7 - l) * 2 ^ l = 256 := by decide

theorem inverseLevel_shape : ∀ l < 8, 2 * 2 ^ l * (128 / 2 ^ l) = 256 := by decide

/-- The upper lane of a pair is a lane of the blocks. -/
theorem pair_lt {len blocks b i : Nat} (hb : b < blocks) (hi : i < len) : 2 * len * b + i + len < 2 * len * blocks := by
  have hle : 2 * len * (b + 1) ≤ 2 * len * blocks := Nat.mul_le_mul_left _ hb
  rw [Nat.mul_succ] at hle
  omega

/-- What both outputs of every butterfly of a level have, every lane has. -/
theorem forall_levelMap {g : NatButterfly} {tw : Nat → Nat} {len blocks k : Nat} {p : Nat → Nat} {P : Nat → Prop}
    (h : ∀ b < blocks, ∀ i < len, P (g (tw (k + b)) (p (2 * len * b + i)) (p (2 * len * b + i + len))).1 ∧
      P (g (tw (k + b)) (p (2 * len * b + i)) (p (2 * len * b + i + len))).2) :
    ∀ j < 2 * len * blocks, P (levelMap g tw len blocks k p j) := by
  intro j hj
  obtain ⟨b, i, hb, hi, rfl | rfl⟩ := lane_cases hj
  · exact levelMap_low g tw k p hb hi ▸ (h b hb i hi).1
  · exact levelMap_high g tw k p hb hi ▸ (h b hb i hi).2

/-! ### The growth of the forward transform (R89) -/

theorem mul_lt_of_twiddle {z x : Nat} (hz : z ≤ Q) (hx : x < 2 ^ 32) : z * x < Q * 2 ^ 32 :=
  lt_of_le_of_lt (Nat.mul_le_mul_right x hz) (Nat.mul_lt_mul_of_pos_left hx (by decide))

/-- R89: with room for 2Q no sum of the butterfly wraps. -/
theorem nttPair_eq {z lo hi : Nat} (hz : z ≤ Q) (hlo : lo + 2 * Q < 2 ^ 32) (hhi : hi < 2 ^ 32) :
    mredcNat (z * hi) < 2 * Q ∧ nttPair z lo hi = (lo + mredcNat (z * hi), lo + 2 * Q - mredcNat (z * hi)) := by
  have ht := mredcNat_lt (mul_lt_of_twiddle hz hhi)
  refine ⟨ht, Prod.ext (Nat.mod_eq_of_lt (by omega)) ?_⟩
  simp only [nttPair]
  omega

section

variable {M : Nat} (hM : M + 2 * Q < 2 ^ 32) {p : Nat → Nat} (hp : ∀ j < 256, p j ≤ M)

include hM hp

/-- R89: a level raises its lanes by at most 2Q; only an upper lane can meet that bound, and no upper lane is 0. -/
theorem forwardLevel_pair {l b i : Nat} (hl : l < 8) (hb : b < 2 ^ l) (hi : i < 2 ^ (7 - l)) :
    forwardLevel l p (2 * 2 ^ (7 - l) * b + i) < M + 2 * Q ∧
    0 < forwardLevel l p (2 * 2 ^ (7 - l) * b + i + 2 ^ (7 - l)) ∧
    forwardLevel l p (2 * 2 ^ (7 - l) * b + i + 2 ^ (7 - l)) ≤ M + 2 * Q := by
  have hlt := pair_lt hb hi
  rw [forwardLevel_shape l hl] at hlt
  have hlo := hp _ (Nat.lt_of_add_right_lt hlt)
  have hhi := hp _ hlt
  obtain ⟨ht, hpair⟩ := nttPair_eq (zeta_lt (2 ^ l + b)).le (lo := p (2 * 2 ^ (7 - l) * b + i))
    (hi := p (2 * 2 ^ (7 - l) * b + i + 2 ^ (7 - l))) (by omega) (by omega)
  rw [forwardLevel, levelMap_low nttPair zeta _ p hb hi, levelMap_high nttPair zeta _ p hb hi, hpair]
  refine ⟨?_, ?_, ?_⟩ <;> dsimp only <;> omega

theorem forwardLevel_le {l : Nat} (hl : l < 8) : ∀ j < 256, forwardLevel l p j ≤ M + 2 * Q := by
  intro j hj
  rw [← forwardLevel_shape l hl] at hj
  obtain ⟨b, i, hb, hi, rfl | rfl⟩ := lane_cases hj
  · exact (forwardLevel_pair hM hp hl hb hi).1.le
  · exact (forwardLevel_pair hM hp hl hb hi).2.2

end

/-- R89: each level raises the greatest lane by at most 2Q. -/
theorem stages_forward_le {B : Nat} (hB : B + 16 * Q < 2 ^ 32) {a : Nat → Nat} (ha : ∀ j < 256, a j ≤ B) {l : Nat}
    (hl : l ≤ 8) : ∀ j < 256, stages forwardLevel l a j ≤ B + 2 * Q * l := by
  induction l with
  | zero => exact ha
  | succ l ih =>
    have hle : 2 * Q * l ≤ 2 * Q * 7 := Nat.mul_le_mul_left _ (by omega)
    rw [Nat.mul_succ, ← Nat.add_assoc]
    exact forwardLevel_le (by omega) (ih (by omega)) (by omega)

theorem zeta_pos : ∀ k < 256, 0 < k → 0 < zeta k := by decide +kernel

theorem mredcNat_pos {a : Nat} (h : a < Q * 2 ^ 32) (ha : 0 < a) : 0 < mredcNat a := by
  have hle : 2 ^ 32 ≤ mredcSum a := Nat.le_of_dvd (Nat.add_pos_left ha _) (two_pow_dvd_mredcSum a)
  rw [mredcNat_eq, Nat.mod_eq_of_lt (mredcSum_lt_of_lt h)]
  exact Nat.div_pos hle (by decide)

/-- The last level meets the bound M + 2Q only where a lane at the bound M is paired with 0. -/
theorem forwardLevel_seven_lt {M : Nat} (hM : M + 2 * Q < 2 ^ 32) {p : Nat → Nat} (hp : ∀ j < 256, p j ≤ M)
    (hpair : ∀ b < 128, p (2 * b) < M ∨ 0 < p (2 * b + 1)) : ∀ j < 256, forwardLevel 7 p j < M + 2 * Q := by
  refine forall_levelMap (P := (· < M + 2 * Q)) (len := 1) (blocks := 128) fun b hb i hi => ?_
  obtain rfl : i = 0 := by omega
  have hlo := hp (2 * b) (by omega)
  have hhi := hp (2 * b + 1) (by omega)
  have hz := (zeta_lt (128 + b)).le
  obtain ⟨ht, heq⟩ := nttPair_eq hz (lo := p (2 * b)) (hi := p (2 * b + 1)) (by omega) (by omega)
  have hpos : p (2 * b) < M ∨ 0 < mredcNat (zeta (128 + b) * p (2 * b + 1)) := (hpair b hb).imp_right fun h =>
    mredcNat_pos (mul_lt_of_twiddle hz (by omega)) (Nat.mul_pos (zeta_pos _ (by omega) (by omega)) h)
  have hgoal : (nttPair (zeta (128 + b)) (p (2 * b)) (p (2 * b + 1))).1 < M + 2 * Q ∧
      (nttPair (zeta (128 + b)) (p (2 * b)) (p (2 * b + 1))).2 < M + 2 * Q := by
    rw [heq]
    constructor <;> dsimp only <;> omega
  exact hgoal

/-- The level before it pairs no 0 with a lane that meets its bound: of neighbouring lanes, the first is a lower lane
or the second an upper one. -/
theorem forwardLevel_six_pair {M : Nat} (hM : M + 2 * Q < 2 ^ 32) {p : Nat → Nat} (hp : ∀ j < 256, p j ≤ M) {b : Nat}
    (hb : b < 128) : forwardLevel 6 p (2 * b) < M + 2 * Q ∨ 0 < forwardLevel 6 p (2 * b + 1) := by
  obtain ⟨c, rfl | rfl⟩ := Nat.even_or_odd' b
  · have hlow := (forwardLevel_pair hM hp (l := 6) (b := c) (i := 0) (by decide) (by omega) (by decide)).1
    rw [show 2 * (2 * c) = 2 * 2 ^ (7 - 6) * c + 0 by omega]
    exact .inl hlow
  · have hhigh := (forwardLevel_pair hM hp (l := 6) (b := c) (i := 1) (by decide) (by omega) (by decide)).2.1
    rw [show 2 * (2 * c + 1) + 1 = 2 * 2 ^ (7 - 6) * c + 1 + 2 ^ (7 - 6) by omega]
    exact .inr hhigh

/-- R89: after all eight levels every lane is below the greatest input plus 16Q. -/
theorem nttLoop_lt {B : Nat} (hB : B + 16 * Q < 2 ^ 32) {a : Nat → Nat} (ha : ∀ j < 256, a j ≤ B) :
    ∀ j < 256, nttLoop a j < B + 16 * Q := by
  have hsix := stages_forward_le hB ha (l := 6) (by decide)
  have hseven := stages_forward_le hB ha (l := 7) (by decide)
  have hpair (b : Nat) (hb : b < 128) := forwardLevel_six_pair (by omega) hsix hb
  rw [show B + 2 * Q * 6 + 2 * Q = B + 2 * Q * 7 by omega] at hpair
  rw [nttLoop_eq_stages, show B + 16 * Q = B + 2 * Q * 7 + 2 * Q by omega]
  exact forwardLevel_seven_lt (by omega) hseven hpair

theorem laneArray_val (s : State) (r : PReg) (k : Fin 256) : laneArray s r k.val = coeffs s r k := dif_pos k.isLt

/-- A bound of the coefficients is a bound of the array's lanes. -/
theorem laneArray_forall {s : State} {r : PReg} {P : Nat → Prop} (h : ∀ k, P (coeffs s r k)) :
    ∀ j < 256, P (laneArray s r j) := by
  intro j hj
  rw [laneArray, dif_pos hj]
  exact h ⟨j, hj⟩

/-- Settles O23: the loop's outputs are below B + 16Q. -/
theorem pNttOutputBound : Obligations.PNttOutputBound := by
  intro rd rs1 s B hle hB
  obtain ⟨t, ht, -, hloop⟩ := pNttRunsLoop rd rs1 s
  refine ⟨t, ht, fun k => ?_⟩
  rw [hloop]
  exact nttLoop_lt (by omega) (laneArray_forall (P := (· ≤ B)) hle) k.val k.isLt

end Sys2Proof.Proofs

/-! PROOFS. The transforms modulo Q (42_ntt.md R91): the forward transform evaluates at the roots of X^256 + 1, the
inverse transform interpolates, and one after the other they multiply by MONT. -/

namespace Sys2Proof.Proofs

open Sys2Proof.Machine Sys2Proof.SpecMath
open Sys2Proof.Config (Q MONT ROOT)

/-! ### Twiddles and roots modulo Q -/

theorem natCast_mont : (MONT : ZMod Q) = 2 ^ 32 := by
  rw [MONT, ZMod.natCast_mod]
  push_cast
  rfl

theorem isUnit_mont : IsUnit (MONT : ZMod Q) := (ZMod.isUnit_iff_coprime MONT Q).mpr (by decide)

/-- R62 modulo Q: MREDC removes one factor MONT. -/
theorem mredcNat_mul_mont {a : Nat} (h : a < Q * 2 ^ 32) : (mredcNat a * MONT : ZMod Q) = a := by
  have hmod := (ZMod.natCast_eq_natCast_iff' _ _ Q).mpr (mredcNat_congr (mredcSum_lt_of_lt h))
  rw [natCast_mont]
  exact_mod_cast hmod

/-- With a twiddle that carries MONT, MREDC multiplies by the root alone (R86). -/
theorem natCast_mredcNat_twiddle {z x : Nat} {w : ZMod Q} (hz : (z : ZMod Q) = MONT * w) (h : z * x < Q * 2 ^ 32) :
    (mredcNat (z * x) : ZMod Q) = w * x := by
  refine isUnit_mont.mul_right_cancel ?_
  rw [mredcNat_mul_mont h, Nat.cast_mul, hz]
  ring

theorem natCast_zeta {k : Nat} (hk : 0 < k) : (zeta k : ZMod Q) = MONT * (ROOT : ZMod Q) ^ brv8 k := by
  rw [zeta, if_neg (by omega), ZMod.natCast_mod]
  push_cast
  rfl

theorem natCast_omega (i : Nat) : (omega i : ZMod Q) = (ROOT : ZMod Q) ^ (2 * brv8 i + 1) := by
  rw [omega, ZMod.natCast_mod]
  push_cast
  rfl

theorem root_pow_512 : (ROOT : ZMod Q) ^ 512 = 1 := by
  rw [show 512 = 256 * 2 by rfl, pow_mul, root_pow_256]
  norm_num

theorem omega_pow_512 (i : Nat) : (omega i : ZMod Q) ^ 512 = 1 := by
  rw [natCast_omega, pow_right_comm, root_pow_512, one_pow]

/-- R91: a block of 2·2^l lanes is split by the twiddle number 128/2^l + i/(2·2^l); on the exponents of ROOT. -/
theorem omega_exponent : ∀ l < 8, ∀ i < 256, (2 * brv8 i + 1) * 2 ^ l % 512 =
    (brv8 (128 / 2 ^ l + i / (2 * 2 ^ l)) + 256 * (i / 2 ^ l % 2)) % 512 := by decide +kernel

/-- R91: the 2^l-th power of ω_i is the twiddle of the block of 2·2^l lanes that i lies in, negated when i lies in the
upper half of the block. -/
theorem omega_pow_two_pow {l i : Nat} (hl : l < 8) (hi : i < 256) : (omega i : ZMod Q) ^ 2 ^ l =
    (ROOT : ZMod Q) ^ brv8 (128 / 2 ^ l + i / (2 * 2 ^ l)) * (-1) ^ (i / 2 ^ l % 2) := by
  rw [natCast_omega, ← pow_mul, pow_eq_pow_mod _ root_pow_512, omega_exponent l hl i hi,
    ← pow_eq_pow_mod _ root_pow_512, pow_add, pow_mul, root_pow_256]

/-! ### The forward transform evaluates (R91 item 1) -/

/-- The block of L lanes that i lies in, as a polynomial, at ω_i. -/
def blockEval (p : Nat → Nat) (L i : Nat) : ZMod Q :=
  ∑ j ∈ Finset.range L, (p (L * (i / L) + j) : ZMod Q) * (omega i : ZMod Q) ^ j

theorem natCast_nttPair {k lo hi : Nat} (hk : 0 < k) (hlo : lo + 2 * Q < 2 ^ 32) (hhi : hi < 2 ^ 32) :
    ((nttPair (zeta k) lo hi).1 : ZMod Q) = lo + (ROOT : ZMod Q) ^ brv8 k * hi ∧
    ((nttPair (zeta k) lo hi).2 : ZMod Q) = lo - (ROOT : ZMod Q) ^ brv8 k * hi := by
  obtain ⟨ht, hpair⟩ := nttPair_eq (zeta_lt k).le hlo hhi
  have hcast := natCast_mredcNat_twiddle (natCast_zeta hk) (mul_lt_of_twiddle (zeta_lt k).le hhi)
  rw [hpair, Nat.cast_sub (by omega), Nat.cast_add, Nat.cast_add, hcast]
  simp

theorem blockEval_double (p : Nat → Nat) (len i : Nat) : blockEval p (2 * len) i =
    ∑ j ∈ Finset.range len, ((p (2 * len * (i / (2 * len)) + j) : ZMod Q) +
      (omega i : ZMod Q) ^ len * p (2 * len * (i / (2 * len)) + j + len)) * (omega i : ZMod Q) ^ j := by
  rw [blockEval, Nat.two_mul, Finset.sum_range_add, ← Nat.two_mul, ← Finset.sum_add_distrib]
  refine Finset.sum_congr rfl fun j _ => ?_
  rw [Nat.add_comm len j, ← Nat.add_assoc]
  ring

/-- The block of len lanes that i lies in is the lower or the upper half of its block of 2·len lanes. -/
theorem half_start (len i : Nat) : len * (i / len) = 2 * len * (i / (2 * len)) + i / len % 2 * len := by
  have hhalf : i / (2 * len) = i / len / 2 := by rw [Nat.div_div_eq_div_mul, Nat.mul_comm]
  rw [hhalf, Nat.mul_comm 2 len, Nat.mul_assoc, Nat.mul_comm _ len, ← Nat.mul_add, Nat.div_add_mod]

theorem two_pow_seven_sub : ∀ l < 8, 128 / 2 ^ (7 - l) = 2 ^ l ∧ 256 / 2 ^ l = 2 * 2 ^ (7 - l) ∧
    256 / 2 ^ (l + 1) = 2 ^ (7 - l) := by decide

/-- A level halves the blocks and keeps their values at the roots: in the lower half X^len is the twiddle, in the upper
half its negation. -/
theorem blockEval_forwardLevel {l i : Nat} (hl : l < 8) (hi : i < 256) {p : Nat → Nat}
    (hp : ∀ j < 256, p j + 2 * Q < 2 ^ 32) :
    blockEval (forwardLevel l p) (2 ^ (7 - l)) i = blockEval p (2 * 2 ^ (7 - l)) i := by
  have hroot := omega_pow_two_pow (l := 7 - l) (by omega) hi
  rw [(two_pow_seven_sub l hl).1] at hroot
  have hb : i / (2 * 2 ^ (7 - l)) < 2 ^ l := Nat.div_lt_of_lt_mul (by rwa [forwardLevel_shape l hl])
  rw [blockEval_double, hroot, blockEval, half_start]
  refine Finset.sum_congr rfl fun j hj => congrArg (· * _) ?_
  have hj := Finset.mem_range.mp hj
  have hlt := pair_lt hb hj
  rw [forwardLevel_shape l hl] at hlt
  have hlo := hp _ (Nat.lt_of_add_right_lt hlt)
  have hhi := hp _ hlt
  obtain ⟨hlow, hhigh⟩ := natCast_nttPair (k := 2 ^ l + i / (2 * 2 ^ (7 - l)))
    (Nat.add_pos_left (Nat.two_pow_pos l) _) hlo (Nat.lt_of_add_right_lt hhi)
  obtain hbit | hbit := Nat.mod_two_eq_zero_or_one (i / 2 ^ (7 - l))
  · rw [hbit, Nat.zero_mul, Nat.add_zero, forwardLevel, levelMap_low nttPair zeta _ p hb hj, hlow]
    ring
  · rw [hbit, Nat.one_mul, Nat.add_right_comm, forwardLevel, levelMap_high nttPair zeta _ p hb hj, hhigh]
    ring

theorem blockEval_stages {B : Nat} (hB : B + 16 * Q < 2 ^ 32) {a : Nat → Nat} (ha : ∀ j < 256, a j ≤ B) {l i : Nat}
    (hl : l ≤ 8) (hi : i < 256) :
    blockEval (stages forwardLevel l a) (256 / 2 ^ l) i = blockEval a 256 i := by
  induction l with
  | zero => rfl
  | succ l ih =>
    obtain ⟨-, hwide, hhalf⟩ := two_pow_seven_sub l hl
    have hle : 2 * Q * l ≤ 2 * Q * 7 := Nat.mul_le_mul_left _ (by omega)
    have hgrow := stages_forward_le hB ha (l := l) (by omega)
    rw [← ih (by omega), hhalf, hwide]
    exact blockEval_forwardLevel hl hi fun j hj => by have := hgrow j hj; omega

/-- R91 item 1, for the loop. -/
theorem natCast_nttLoop {a : Nat → Nat} (ha : ∀ j < 256, a j < 2 ^ 32 - 16 * Q) {i : Nat} (hi : i < 256) :
    (nttLoop a i : ZMod Q) = ∑ j ∈ Finset.range 256, (a j : ZMod Q) * (omega i : ZMod Q) ^ j := by
  have h := blockEval_stages (B := 2 ^ 32 - 16 * Q - 1) (by decide) (a := a) (fun j hj => by have := ha j hj; omega)
    (l := 8) le_rfl hi
  rw [← nttLoop_eq_stages] at h
  simpa [blockEval, Nat.div_eq_of_lt hi] using h

/-- The sum over the lanes of a register, as the sum over its array. -/
theorem sum_coeffs {α : Type} [AddCommMonoid α] (s : State) (r : PReg) (f : Nat → Nat → α) :
    ∑ k : Fin 256, f (coeffs s r k) k.val = ∑ k ∈ Finset.range 256, f (laneArray s r k) k := by
  rw [← Fin.sum_univ_eq_sum_range fun k => f (laneArray s r k) k]
  simp only [laneArray_val]

/-- Settles O25: the loop's outputs are the values at the roots. -/
theorem pNttEvaluates : Obligations.PNttEvaluates := by
  intro rd rs1 s hlt
  obtain ⟨t, ht, -, hloop⟩ := pNttRunsLoop rd rs1 s
  refine ⟨t, ht, fun i => (ZMod.natCast_eq_natCast_iff' _ _ Q).mp ?_⟩
  rw [hloop, natCast_nttLoop (laneArray_forall (P := (· < 2 ^ 32 - 16 * Q)) hlt) i.isLt,
    sum_coeffs s rs1 fun a j => a * omega i.val ^ j]
  push_cast
  rfl

/-! ### The inverse transform interpolates (R91 item 2) -/

/-- R90: for lanes below 256Q neither the sum nor the difference wraps. -/
theorem inttPair_eq {z lo hi : Nat} (hz : z ≤ Q) (hlo : lo < 256 * Q) (hhi : hi < 256 * Q) :
    z * (lo + 256 * Q - hi) < Q * 2 ^ 32 ∧ inttPair z lo hi = (lo + hi, mredcNat (z * (lo + 256 * Q - hi))) := by
  have hroom : 512 * Q < 2 ^ 32 := by decide
  have hdiff : ((lo : Int) + 256 * Q - hi) % 2 ^ 32 = (lo + 256 * Q - hi : Nat) := by omega
  refine ⟨mul_lt_of_twiddle hz (by omega), ?_⟩
  rw [inttPair, hdiff, Int.toNat_natCast, Nat.mod_eq_of_lt (by omega)]

/-- R87: the twiddle of block b of inverse level l is MONT times the inverse of the twiddle that split the block. -/
theorem natCast_zetaInv_block {l b : Nat} (hl : l < 8) (hb : b < 128 / 2 ^ l) :
    ∃ w : ZMod Q, (zetaInv (256 - 256 / 2 ^ l + b) : ZMod Q) = MONT * w ∧
      w * (ROOT : ZMod Q) ^ brv8 (128 / 2 ^ l + b) = 1 := by
  refine ⟨-(ROOT : ZMod Q) ^ brv8 (255 - (256 - 256 / 2 ^ l + b)), ?_, ?_⟩
  · rw [natCast_zetaInv (inverse_block_lt hl hb)]
    ring
  · rw [neg_mul, ← pow_add, brv8_mirror l hl b hb, root_pow_256, neg_neg]

theorem natCast_inttPair {z lo hi : Nat} {w : ZMod Q} (hz : z ≤ Q) (hw : (z : ZMod Q) = MONT * w)
    (hlo : lo < 256 * Q) (hhi : hi < 256 * Q) :
    ((inttPair z lo hi).1 : ZMod Q) = lo + hi ∧ ((inttPair z lo hi).2 : ZMod Q) = w * (lo - hi) := by
  obtain ⟨hlt, hpair⟩ := inttPair_eq hz hlo hhi
  rw [hpair, Nat.cast_add, natCast_mredcNat_twiddle hw hlt, Nat.cast_sub (by omega)]
  simp

/-- R90: a level at most doubles the bound of the lanes. -/
theorem inverseLevel_lt {l M : Nat} (hl : l < 8) (hQ : Q ≤ M) (hM : M ≤ 256 * Q) {p : Nat → Nat}
    (hp : ∀ j < 256, p j < M) : ∀ j < 256, inverseLevel l p j < 2 * M := by
  rw [← inverseLevel_shape l hl] at hp ⊢
  refine forall_levelMap (P := (· < 2 * M)) fun b hb i hi => ?_
  have hhi := hp _ (pair_lt hb hi)
  have hlo := hp _ (Nat.lt_of_add_right_lt (pair_lt hb hi))
  obtain ⟨hlt, hpair⟩ := inttPair_eq (zetaInv_le (256 - 256 / 2 ^ l + b)) (lo := p (2 * 2 ^ l * b + i))
    (hi := p (2 * 2 ^ l * b + i + 2 ^ l)) (by omega) (by omega)
  rw [hpair]
  exact ⟨by dsimp only; omega, (mredcNat_lt hlt).trans_le (by omega)⟩

theorem stages_inverse_lt {x : Nat → Nat} (hx : ∀ j < 256, x j < 2 * Q) {l : Nat} (hl : l ≤ 8) :
    ∀ j < 256, stages inverseLevel l x j < 2 * Q * 2 ^ l := by
  induction l with
  | zero => simpa [stages] using hx
  | succ l ih =>
    have hpos : 1 ≤ 2 ^ l := Nat.one_le_two_pow
    have hle : 2 ^ l ≤ 2 ^ 7 := Nat.pow_le_pow_right (by decide) (by omega)
    rw [Nat.pow_succ', Nat.mul_left_comm]
    exact inverseLevel_lt hl (by unfold Q; omega) (by unfold Q; omega) (ih (by omega))

/-- Lane j of the interpolation of block c of L lanes: the block's values against the inverse roots to the power j. -/
def blockInterp (x : Nat → Nat) (L c j : Nat) : ZMod Q :=
  ∑ m ∈ Finset.range L, (x (L * c + m) : ZMod Q) * (omega (L * c + m) : ZMod Q) ^ (512 - j)

theorem blockInterp_double (x : Nat → Nat) (len b j : Nat) :
    blockInterp x (2 * len) b j = blockInterp x len (2 * b) j + blockInterp x len (2 * b + 1) j := by
  rw [blockInterp, Nat.two_mul len, Finset.sum_range_add, ← Nat.two_mul, blockInterp, blockInterp]
  congr 1
  · rw [Nat.mul_left_comm, Nat.mul_assoc]
  · refine Finset.sum_congr rfl fun m _ => ?_
    rw [show 2 * len * b + (len + m) = len * (2 * b + 1) + m by ring]

/-- The twiddle's inverse lowers the power of a root by 2^l, with a sign in the upper half of the block. -/
theorem inverse_twiddle_mul {l i n : Nat} {w : ZMod Q} (hl : l < 8) (hi : i < 256) (hn : 2 ^ l ≤ n)
    (hw : w * (ROOT : ZMod Q) ^ brv8 (128 / 2 ^ l + i / (2 * 2 ^ l)) = 1) :
    w * (omega i : ZMod Q) ^ n = (-1) ^ (i / 2 ^ l % 2) * (omega i : ZMod Q) ^ (n - 2 ^ l) := by
  rw [← pow_sub_mul_pow _ hn, omega_pow_two_pow hl hi]
  linear_combination (omega i : ZMod Q) ^ (n - 2 ^ l) * (-1) ^ (i / 2 ^ l % 2) * hw

/-- Half a block, multiplied by the inverse twiddle: its lane j + 2^l, with the sign of the half. -/
theorem inverse_twiddle_mul_blockInterp {l b c j : Nat} {w : ZMod Q} (hl : l < 8) (hb : b < 128 / 2 ^ l)
    (hc : c / 2 = b) (hj : j < 2 ^ l) (hw : w * (ROOT : ZMod Q) ^ brv8 (128 / 2 ^ l + b) = 1) (x : Nat → Nat) :
    w * blockInterp x (2 ^ l) c j = (-1) ^ (c % 2) * blockInterp x (2 ^ l) c (j + 2 ^ l) := by
  rw [blockInterp, blockInterp, Finset.mul_sum, Finset.mul_sum]
  refine Finset.sum_congr rfl fun m hm => ?_
  have hm := Finset.mem_range.mp hm
  have hdiv : (2 ^ l * c + m) / 2 ^ l = c := by
    rw [Nat.mul_add_div (Nat.two_pow_pos l), Nat.div_eq_of_lt hm, Nat.add_zero]
  have hblock : (2 ^ l * c + m) / (2 * 2 ^ l) = b := by rw [Nat.mul_comm 2, ← Nat.div_div_eq_div_mul, hdiv, hc]
  have hlt : 2 ^ l * c + m < 256 := by
    have hle := Nat.mul_le_mul_left (2 ^ l) (show c + 1 ≤ 2 * (128 / 2 ^ l) by omega)
    rw [Nat.mul_succ, ← Nat.mul_assoc, Nat.mul_comm _ 2, inverseLevel_shape l hl] at hle
    omega
  have hle : 2 ^ l ≤ 2 ^ 7 := Nat.pow_le_pow_right (by decide) (by omega)
  have hshift := inverse_twiddle_mul hl hlt (n := 512 - j) (by omega) (hblock.symm ▸ hw)
  rw [hdiv, Nat.sub_sub] at hshift
  linear_combination (x (2 ^ l * c + m) : ZMod Q) * hshift

theorem two_pow_succ_blocks : ∀ l < 8, 256 / 2 ^ (l + 1) = 128 / 2 ^ l ∧ 256 / 2 ^ l = 2 * (128 / 2 ^ l) := by decide

/-- A level joins two interpolated blocks to one of twice the length. -/
theorem inverseLevel_interp {l : Nat} (hl : l < 8) {p x : Nat → Nat} (hp : ∀ j < 256, p j < 256 * Q)
    (hinterp : ∀ c < 256 / 2 ^ l, ∀ j < 2 ^ l, (p (2 ^ l * c + j) : ZMod Q) = blockInterp x (2 ^ l) c j) :
    ∀ b < 256 / 2 ^ (l + 1), ∀ j < 2 ^ (l + 1),
      (inverseLevel l p (2 ^ (l + 1) * b + j) : ZMod Q) = blockInterp x (2 ^ (l + 1)) b j := by
  obtain ⟨hwide, hnarrow⟩ := two_pow_succ_blocks l hl
  intro b hb j hj
  rw [hwide] at hb
  rw [Nat.pow_succ'] at hj ⊢
  obtain ⟨w, hz, hw⟩ := natCast_zetaInv_block hl hb
  have hpair {i : Nat} (hi : i < 2 ^ l) :
      (inverseLevel l p (2 * 2 ^ l * b + i) : ZMod Q) = blockInterp x (2 ^ l) (2 * b) i +
        blockInterp x (2 ^ l) (2 * b + 1) i ∧
      (inverseLevel l p (2 * 2 ^ l * b + i + 2 ^ l) : ZMod Q) = w * (blockInterp x (2 ^ l) (2 * b) i -
        blockInterp x (2 ^ l) (2 * b + 1) i) := by
    have hlt := pair_lt hb hi
    rw [inverseLevel_shape l hl] at hlt
    rw [← hinterp (2 * b) (by omega) i hi, ← hinterp (2 * b + 1) (by omega) i hi,
      show 2 ^ l * (2 * b) + i = 2 * 2 ^ l * b + i by ring,
      show 2 ^ l * (2 * b + 1) + i = 2 * 2 ^ l * b + i + 2 ^ l by ring, inverseLevel,
      levelMap_low inttPair zetaInv _ p hb hi, levelMap_high inttPair zetaInv _ p hb hi]
    exact natCast_inttPair (zetaInv_le _) hz (hp _ (Nat.lt_of_add_right_lt hlt)) (hp _ hlt)
  rw [blockInterp_double]
  obtain hj' | hj' := Nat.lt_or_ge j (2 ^ l)
  · exact (hpair hj').1
  · obtain ⟨i, rfl⟩ := Nat.exists_eq_add_of_le' hj'
    have hi : i < 2 ^ l := by omega
    have hlow := inverse_twiddle_mul_blockInterp (c := 2 * b) hl hb (by omega) hi hw x
    have hhigh := inverse_twiddle_mul_blockInterp (c := 2 * b + 1) hl hb (by omega) hi hw x
    rw [Nat.mul_mod_right, pow_zero, one_mul] at hlow
    rw [Nat.mul_add_mod, pow_one] at hhigh
    rw [← Nat.add_assoc, (hpair hi).2, mul_sub, hlow, hhigh]
    ring

theorem stages_inverse_interp {x : Nat → Nat} (hx : ∀ j < 256, x j < 2 * Q) {l : Nat} (hl : l ≤ 8) :
    ∀ c < 256 / 2 ^ l, ∀ j < 2 ^ l,
      (stages inverseLevel l x (2 ^ l * c + j) : ZMod Q) = blockInterp x (2 ^ l) c j := by
  induction l with
  | zero =>
    intro c _ j hj
    obtain rfl : j = 0 := by omega
    simp [stages, blockInterp, omega_pow_512]
  | succ l ih =>
    have hle : 2 ^ l ≤ 2 ^ 7 := Nat.pow_le_pow_right (by decide) (by omega)
    refine inverseLevel_interp hl (fun j hj => ?_) (ih (by omega))
    exact (stages_inverse_lt hx (by omega) j hj).trans_le (by unfold Q; omega)

/-- R88: F_INV is MONT^2/256. -/
theorem fInv_mul_256 : (41978 * 256 : ZMod Q) = MONT * MONT := by
  exact_mod_cast (ZMod.natCast_eq_natCast_iff' (41978 * 256) (MONT * MONT) Q).mpr (by decide)

/-- R91 item 2, for the loop. -/
theorem natCast_inttLoop {x : Nat → Nat} (hx : ∀ j < 256, x j < 2 * Q) {j : Nat} (hj : j < 256) :
    (inttLoop x j * 256 : ZMod Q) =
      MONT * ∑ i ∈ Finset.range 256, (x i : ZMod Q) * (omega i : ZMod Q) ^ (512 - j) := by
  have hlane := stages_inverse_interp hx (l := 8) le_rfl 0 (by decide) j hj
  have hlt := stages_inverse_lt hx (l := 8) le_rfl j hj
  have hscale := mredcNat_mul_mont (a := 41978 * stages inverseLevel 8 x j)
    (mul_lt_of_twiddle (by decide) (hlt.trans (by decide)))
  rw [show (2 : ℕ) ^ 8 = 256 by rfl, Nat.mul_zero, Nat.zero_add, blockInterp] at hlane
  simp only [Nat.mul_zero, Nat.zero_add] at hlane
  rw [← hlane, inttLoop_eq_stages]
  refine isUnit_mont.mul_right_cancel ?_
  push_cast at hscale
  linear_combination 256 * hscale + (stages inverseLevel 8 x j : ZMod Q) * fInv_mul_256

/-- Settles O26: the loop interpolates. -/
theorem pInvnttInterpolates : Obligations.PInvnttInterpolates := by
  intro rd rs1 s hlt
  obtain ⟨t, ht, -, hloop⟩ := pInvnttRunsLoop rd rs1 s
  refine ⟨t, ht, fun j => (ZMod.natCast_eq_natCast_iff' _ _ Q).mp ?_⟩
  have h := natCast_inttLoop (laneArray_forall (P := (· < 2 * Q)) hlt) j.isLt
  rw [hloop, sum_coeffs s rs1 fun x i => x * omega i ^ (512 - j.val)]
  push_cast
  exact h

/-! ### The round trip (R91 item 3) -/

theorem brv8_involutive : ∀ i < 256, brv8 i < 256 ∧ brv8 (brv8 i) = i := by decide +kernel

theorem prime_Q : Nat.Prime Q := by
  unfold Q
  norm_num

theorem orderOf_root : orderOf (ROOT : ZMod Q) = 512 := by
  have hne : ¬ (ROOT : ZMod Q) ^ 2 ^ 8 = 1 := by
    rw [show 2 ^ 8 = 256 by rfl, root_pow_256]
    decide
  exact orderOf_eq_prime_pow hne root_pow_512

/-- R91: the ω_i are the odd powers of ROOT, in the order of the bit reversal, so the sum of a power of them is a
geometric series; it vanishes but for the multiples of 256. -/
theorem sum_omega_pow {e : Nat} (he : ¬ 256 ∣ e) : ∑ i ∈ Finset.range 256, (omega i : ZMod Q) ^ e = 0 := by
  have : Fact (Nat.Prime Q) := ⟨prime_Q⟩
  have hsum : ∑ i ∈ Finset.range 256, (omega i : ZMod Q) ^ e =
      (ROOT : ZMod Q) ^ e * ∑ m ∈ Finset.range 256, ((ROOT : ZMod Q) ^ (2 * e)) ^ m := by
    rw [Finset.mul_sum]
    refine Finset.sum_nbij' brv8 brv8 ?_ ?_ ?_ ?_ ?_
    · simpa using fun i hi => (brv8_involutive i hi).1
    · simpa using fun i hi => (brv8_involutive i hi).1
    · simpa using fun i hi => (brv8_involutive i hi).2
    · simpa using fun i hi => (brv8_involutive i hi).2
    · intro i _
      rw [natCast_omega, ← pow_mul, ← pow_mul, ← pow_add]
      ring_nf
  have hpow : ((ROOT : ZMod Q) ^ (2 * e)) ^ 256 = 1 := by
    rw [← pow_mul, show 2 * e * 256 = 512 * e by ring, pow_mul, root_pow_512, one_pow]
  have hgeom := mul_geom_sum ((ROOT : ZMod Q) ^ (2 * e)) 256
  rw [hpow, sub_self] at hgeom
  have hne : (ROOT : ZMod Q) ^ (2 * e) - 1 ≠ 0 := fun h => he <| by
    have hdvd := orderOf_dvd_of_pow_eq_one (sub_eq_zero.mp h)
    rw [orderOf_root] at hdvd
    omega
  rw [hsum, (mul_eq_zero.mp hgeom).resolve_left hne, mul_zero]

/-- R91: interpolating the values at the roots gives 256 times each coefficient. -/
theorem sum_eval_mul_omega (a : Nat → ZMod Q) {k : Nat} (hk : k < 256) :
    ∑ i ∈ Finset.range 256, (∑ j ∈ Finset.range 256, a j * (omega i : ZMod Q) ^ j) * (omega i : ZMod Q) ^ (512 - k) =
      256 * a k := by
  calc ∑ i ∈ Finset.range 256, (∑ j ∈ Finset.range 256, a j * (omega i : ZMod Q) ^ j) * (omega i : ZMod Q) ^ (512 - k)
      = ∑ j ∈ Finset.range 256, a j * ∑ i ∈ Finset.range 256, (omega i : ZMod Q) ^ (j + (512 - k)) := by
        simp only [Finset.sum_mul, Finset.mul_sum, pow_add, mul_assoc]
        exact Finset.sum_comm
    _ = a k * ∑ i ∈ Finset.range 256, (omega i : ZMod Q) ^ (k + (512 - k)) := by
        refine Finset.sum_eq_single_of_mem k (Finset.mem_range.mpr hk) fun j hj hne => ?_
        have hj := Finset.mem_range.mp hj
        rw [sum_omega_pow (by omega), mul_zero]
    _ = 256 * a k := by
        simp only [show k + (512 - k) = 512 by omega, omega_pow_512, Finset.sum_const, Finset.card_range, nsmul_eq_mul,
          mul_one]
        push_cast
        ring

/-- P.FREEZE leaves the residue of each coefficient (R61, R72). -/
theorem exec_pFreeze (rd rs1 : PReg) (s : State) :
    ∃ t, exec (.pFreeze rd rs1) s = .next t ∧ ∀ k, coeffs t rd k = coeffs s rs1 k % Q := by
  refine ⟨_, rfl, fun k => ?_⟩
  rw [coeffs_polyUnary, getElem_mapLanes, getElem_readP, toNat_freeze, coeffs]

theorem isUnit_256 : IsUnit (256 : ZMod Q) := by
  exact_mod_cast (ZMod.isUnit_iff_coprime 256 Q).mpr (by decide)

/-- Settles O27: the values at the roots, interpolated, and each residue made canonical by a freeze. -/
theorem transformRoundTrip : Obligations.TransformRoundTrip := by
  intro s r x hlt
  obtain ⟨t1, h1, heval⟩ := pNttEvaluates x r s fun k => (hlt k).trans (by decide)
  obtain ⟨t2, h2, hfreeze⟩ := exec_pFreeze x x t1
  obtain ⟨t3, h3, hinterp⟩ := pInvnttInterpolates x x t2 fun k => by
    rw [hfreeze]
    exact (Nat.mod_lt _ (by decide)).trans (by decide)
  obtain ⟨t4, h4, hfinal⟩ := exec_pFreeze x x t3
  refine ⟨t4, by simp only [execAll, h1, h2, h3, h4], fun k => ?_⟩
  rw [hfinal]
  refine (ZMod.natCast_eq_natCast_iff' _ _ Q).mp (isUnit_256.mul_right_cancel ?_)
  have hvalue (i : Fin 256) : (coeffs t2 x i : ZMod Q) =
      ∑ j ∈ Finset.range 256, (laneArray s r j : ZMod Q) * (omega i.val : ZMod Q) ^ j := by
    rw [hfreeze, ZMod.natCast_mod, (ZMod.natCast_eq_natCast_iff' _ _ Q).mpr (heval i),
      sum_coeffs s r fun a j => a * omega i.val ^ j]
    push_cast
    rfl
  have hlane := (ZMod.natCast_eq_natCast_iff' _ _ Q).mpr (hinterp k)
  push_cast at hlane ⊢
  simp only [hvalue] at hlane
  rw [hlane, Fin.sum_univ_eq_sum_range fun i => (∑ j ∈ Finset.range 256, (laneArray s r j : ZMod Q) *
    (omega i : ZMod Q) ^ j) * (omega i : ZMod Q) ^ (512 - k.val), sum_eval_mul_omega _ k.isLt, laneArray_val]
  ring

end Sys2Proof.Proofs

/-! PROOFS. The multiplier (43_multiplier.md): the pointwise products and their accumulation (R94, R95), P.POLYMUL as a
composition of commands (R96), and the product law modulo X^256 + 1 (R97 item 4). -/

namespace Sys2Proof.Proofs

open Sys2Proof.Machine Sys2Proof.SpecMath
open Sys2Proof.Config (Q MONT)

/-! ### The pointwise product (R94) -/

theorem toNat_pwmul (a b : Lanes) (k : Fin 256) :
    ((pwmul a b)[k.val]).toNat = mmulNat (a[k.val]).toNat (b[k.val]).toNat := by
  rw [pwmul, getElem_zipLanes, toNat_mmul]

theorem toNat_pwmul_readP (s : State) (rs1 rs2 : PReg) (k : Fin 256) :
    ((pwmul (s.readP rs1) (s.readP rs2))[k.val]).toNat = mmulNat (coeffs s rs1 k) (coeffs s rs2 k) := by
  rw [toNat_pwmul, getElem_readP, getElem_readP]
  rfl

theorem coeffs_polyBinary (g : Lanes → Lanes → Lanes) (rd rs1 rs2 : PReg) (s : State) (k : Fin 256) :
    coeffs (polyBinary g rd rs1 rs2 s) rd k = ((g (s.readP rs1) (s.readP rs2))[k.val]).toNat := by
  rw [coeffs, readCoeff_polyBinary, if_pos rfl]

/-- Settles O28: each lane is MMUL, and R63's laws are those of MMUL below Q·2^32. -/
theorem pPwmulResult : Obligations.PPwmulResult := by
  intro rd rs1 rs2 s
  refine ⟨_, rfl, polyFrame_of_coeff (i := .pPwmul rd rs1 rs2) rfl (fun _ => rfl)
    (coeff_polyBinary s pwmul rd rs1 rs2), fun k => ?_⟩
  rw [coeffs_polyBinary, toNat_pwmul_readP]
  exact ⟨rfl, mmulNat_spec⟩

/-! ### The accumulation (R95) -/

/-- R95: polynomials added one after another in 32 bits, lane by lane; the wraps add up to one. -/
theorem toNat_foldl_add (p : Nat → Lanes) (n : Nat) (k : Fin 256) :
    ((((List.range n).map p).foldl (zipLanes (· + ·)) (Vector.replicate 256 0))[k.val]).toNat =
      (∑ j ∈ Finset.range n, ((p j)[k.val]).toNat) % 2 ^ 32 := by
  induction n with
  | zero => simp
  | succ n ih =>
    rw [List.range_succ, List.map_append, List.foldl_append, List.map_singleton, List.foldl_cons, List.foldl_nil,
      getElem_zipLanes, BitVec.toNat_add, ih, Finset.sum_range_succ, Nat.mod_add_mod]

/-- The n pairs of sources of P.PWACC, multiplied pointwise. -/
theorem zipWith_pwmul_vectorRegs (s : State) (rs1 rs2 : PReg) (n : Nat) :
    List.zipWith pwmul ((vectorRegs rs1 n).map s.readP) ((vectorRegs rs2 n).map s.readP) =
      (List.range n).map fun j =>
        pwmul (s.readP (Fin.ofNat 32 (rs1.val + j))) (s.readP (Fin.ofNat 32 (rs2.val + j))) := by
  rw [vectorRegs, vectorRegs, List.map_map, List.map_map, List.zipWith_map, List.zipWith_self]
  rfl

theorem toNat_pwacc_vectorRegs (s : State) (rs1 rs2 : PReg) (n : Nat) (k : Fin 256) :
    ((pwacc ((vectorRegs rs1 n).map s.readP) ((vectorRegs rs2 n).map s.readP))[k.val]).toNat =
      (∑ j ∈ Finset.range n,
        mmulNat (coeffs s (Fin.ofNat 32 (rs1.val + j)) k) (coeffs s (Fin.ofNat 32 (rs2.val + j)) k)) % 2 ^ 32 % Q := by
  rw [pwacc, getElem_mapLanes, toNat_freeze, zipWith_pwmul_vectorRegs, toNat_foldl_add]
  simp only [toNat_pwmul_readP]

/-- A command that consumes registers, writes P[rd] whole and completes: every coefficient after it. -/
theorem coeff_consume_writeP (s : State) (rs : List PReg) (rd : PReg) (p : Lanes) (q : PReg) (k : Fin 256) :
    (complete ((s.consume rs).writeP rd p)).coeff q k = if q = rd then .written p[k.val] else s.coeff q k := by
  rw [coeff_complete, coeff_writeP, coeff_consume]

/-- Settles O29: the products of the n pairs are added lane by lane and frozen. -/
theorem pPwaccResult : Obligations.PPwaccResult := by
  intro rd rs1 rs2 n s _
  refine ⟨_, rfl, polyFrame_of_coeff (i := .pPwacc rd rs1 rs2 n) rfl (fun _ => rfl) (coeff_consume_writeP s _ rd _),
    fun k => ?_⟩
  rw [coeffs, readCoeff_complete, readCoeff_writeP, if_pos rfl, toNat_pwacc_vectorRegs]

/-- R95: 31 summands below 2Q fit in 32 bits. -/
theorem sum_lt_of_lt_two_mul_Q {f : Nat → Nat} {n : Nat} (hn : n < 32) (hf : ∀ j < n, f j < 2 * Q) :
    ∑ j ∈ Finset.range n, f j < 2 ^ 32 := by
  have hle : ∑ j ∈ Finset.range n, f j ≤ n * (2 * Q) := by
    simpa using Finset.sum_le_card_nsmul (Finset.range n) f (2 * Q) fun j hj => (hf j (Finset.mem_range.mp hj)).le
  unfold Q at hle
  omega

/-- Settles O30: the sum does not wrap, and each summand carries one factor 2^(−32). -/
theorem pPwaccInnerProduct : Obligations.PPwaccInnerProduct := by
  intro rd rs1 rs2 n s hwf hlt
  obtain ⟨t, ht, -, hsum⟩ := pPwaccResult rd rs1 rs2 n s hwf
  refine ⟨t, ht, fun k => ?_⟩
  have hspec (j : Nat) (hj : j < n.val) := mmulNat_spec (hlt j hj k)
  rw [hsum, Nat.mod_eq_of_lt (sum_lt_of_lt_two_mul_Q n.isLt fun j hj => (hspec j hj).1)]
  refine ⟨Nat.mod_lt _ (by decide), ?_⟩
  rw [Nat.mod_mul_mod, Finset.sum_mul, Finset.sum_nat_mod,
    Finset.sum_congr rfl fun j hj => (hspec j (Finset.mem_range.mp hj)).2, ← Finset.sum_nat_mod]

/-! ### P.POLYMUL as a composition (R96) -/

theorem readP_polyUnary (g : Lanes → Lanes) (rd rs1 q : PReg) (s : State) :
    (polyUnary g rd rs1 s).readP q = if q = rd then g (s.readP rs1) else s.readP q := by
  rw [polyUnary, readP_complete, readP_writeP, readP_consume]

theorem readP_polyBinary (g : Lanes → Lanes → Lanes) (rd rs1 rs2 q : PReg) (s : State) :
    (polyBinary g rd rs1 rs2 s).readP q = if q = rd then g (s.readP rs1) (s.readP rs2) else s.readP q := by
  rw [polyBinary, readP_complete, readP_writeP, readP_consume]

/-- The state after R96's five commands with the scratch registers x and y. -/
def afterPolymulSteps (x y rs1 rs2 : PReg) (s : State) : State :=
  polyUnary (mapLanes freeze) x x <| polyUnary intt x x <| polyBinary pwmul x x y <| polyUnary ntt y rs2 <|
    polyUnary ntt x rs1 s

theorem execAll_polymul_steps (x y rs1 rs2 : PReg) (s : State) :
    execAll [.pNtt x rs1, .pNtt y rs2, .pPwmul x x y, .pInvntt x x, .pFreeze x x] s =
      .next (afterPolymulSteps x y rs1 rs2 s) := rfl

/-- R96: the second source is still there when the second transform reads it, and x when the product does. -/
theorem readP_afterPolymulSteps {x y rs2 : PReg} (h2 : x ≠ rs2) (hy : x ≠ y) (rs1 : PReg) (s : State) :
    (afterPolymulSteps x y rs1 rs2 s).readP x = polymul (s.readP rs1) (s.readP rs2) := by
  have h1 : (polyUnary ntt x rs1 s).readP rs2 = s.readP rs2 := by rw [readP_polyUnary, if_neg h2.symm]
  simp only [afterPolymulSteps, readP_polyUnary, readP_polyBinary, if_pos, if_neg hy, h1, polymul]

theorem toNat_polymul (a b : Lanes) (k : Fin 256) :
    ((polymul a b)[k.val]).toNat = inttLoop (laneNumbers (pwmul (ntt a) (ntt b)).toList) k.val % Q := by
  rw [polymul, getElem_mapLanes, toNat_freeze, toNat_intt]

/-- Settles O31: both sides leave `polymul` of the two sources, which ends with a freeze. -/
theorem pPolymulComposes : Obligations.PPolymulComposes := by
  intro rd rs1 rs2 x y s h2 hy
  refine ⟨_, _, rfl, polyFrame_of_coeff (i := .pPolymul rd rs1 rs2) rfl (fun _ => rfl)
    (coeff_polyBinary s polymul rd rs1 rs2), execAll_polymul_steps x y rs1 rs2 s, fun k => ⟨?_, ?_⟩⟩
  · rw [readCoeff_polyBinary, if_pos rfl, ← getElem_readP _ x k.val k.isLt, readP_afterPolymulSteps h2 hy]
  · rw [coeffs_polyBinary, toNat_polymul]
    exact Nat.mod_lt _ (by decide)

/-! ### The product modulo X^256 + 1 (R97) -/

theorem omega_pow_256 (i : Nat) : (omega i : ZMod Q) ^ 256 = -1 := by
  rw [natCast_omega, pow_right_comm, root_pow_256, Odd.neg_one_pow (odd_two_mul_add_one _)]

/-- One product of two monomials: at a root of X^256 + 1, its place in the schoolbook sum does not change its value. -/
theorem sum_negacyclic_term {w : ZMod Q} (hw : w ^ 256 = -1) (c : ZMod Q) (i j : Fin 256) :
    ∑ k : Fin 256, (if i.val + j.val = k.val then c else if i.val + j.val = k.val + 256 then -c else 0) * w ^ k.val =
      c * w ^ (i.val + j.val) := by
  obtain hlt | hge := Nat.lt_or_ge (i.val + j.val) 256
  · rw [Finset.sum_eq_single_of_mem ⟨i.val + j.val, hlt⟩ (Finset.mem_univ _), if_pos rfl]
    intro k _ hne
    rw [if_neg fun h => hne (Fin.ext h.symm), if_neg (by omega), zero_mul]
  · obtain ⟨m, hm⟩ := Nat.exists_eq_add_of_le' hge
    have hwrap : w ^ (i.val + j.val) = -w ^ m := by rw [hm, pow_add, hw, mul_neg_one]
    rw [Finset.sum_eq_single_of_mem ⟨m, by omega⟩ (Finset.mem_univ _), if_neg (by dsimp only; omega), if_pos hm, hwrap,
      neg_mul_comm]
    intro k _ hne
    rw [if_neg (by omega), if_neg fun h => hne (Fin.ext (Nat.add_right_cancel (h.symm.trans hm))), zero_mul]

/-- R97: at a root of X^256 + 1, the schoolbook product has the product of the two values. -/
theorem sum_negacyclic_mul_pow {w : ZMod Q} (hw : w ^ 256 = -1) (a b : Fin 256 → Nat) :
    ∑ k : Fin 256, (negacyclic a b k : ZMod Q) * w ^ k.val =
      (∑ i : Fin 256, (a i : ZMod Q) * w ^ i.val) * ∑ j : Fin 256, (b j : ZMod Q) * w ^ j.val := by
  calc ∑ k : Fin 256, (negacyclic a b k : ZMod Q) * w ^ k.val
      = ∑ i : Fin 256, ∑ j : Fin 256, ∑ k : Fin 256, (if i.val + j.val = k.val then (a i * b j : ZMod Q)
          else if i.val + j.val = k.val + 256 then -(a i * b j : ZMod Q) else 0) * w ^ k.val := by
        simp only [negacyclic]
        push_cast
        simp only [Finset.sum_mul]
        rw [Finset.sum_comm]
        exact Finset.sum_congr rfl fun i _ => Finset.sum_comm
    _ = ∑ i : Fin 256, ∑ j : Fin 256, (a i : ZMod Q) * w ^ i.val * ((b j : ZMod Q) * w ^ j.val) := by
        refine Finset.sum_congr rfl fun i _ => Finset.sum_congr rfl fun j _ => ?_
        rw [sum_negacyclic_term hw]
        ring
    _ = _ := (Finset.sum_mul_sum _ _ _ _).symm

/-- R91 item 1 for the array of a register, as a sum over its lanes. -/
theorem natCast_nttLoop_laneArray {s : State} {r : PReg} (h : ∀ k, coeffs s r k ≤ 55633166) (i : Fin 256) :
    (nttLoop (laneArray s r) i.val : ZMod Q) =
      ∑ j : Fin 256, (coeffs s r j : ZMod Q) * (omega i.val : ZMod Q) ^ j.val := by
  have hlt : ∀ j < 256, laneArray s r j < 2 ^ 32 - 16 * Q :=
    laneArray_forall (P := (· < 2 ^ 32 - 16 * Q)) fun k => (h k).trans_lt (by decide)
  rw [natCast_nttLoop hlt i.isLt, sum_coeffs s r fun a j => (a : ZMod Q) * (omega i.val : ZMod Q) ^ j]

/-- R91: interpolation of values at the roots, for coefficients numbered by lanes. -/
theorem sum_eval_mul_omega_fin (c : Fin 256 → ZMod Q) (k : Fin 256) :
    ∑ i : Fin 256, (∑ j : Fin 256, c j * (omega i.val : ZMod Q) ^ j.val) * (omega i.val : ZMod Q) ^ (512 - k.val) =
      256 * c k := by
  have h := sum_eval_mul_omega (fun j => c (Fin.ofNat 256 j)) k.isLt
  simp only [Finset.sum_range, Fin.ofNat_val_eq_self] at h
  exact h

section

variable {s : State} {rs1 rs2 : PReg} (h1 : ∀ k, coeffs s rs1 k ≤ 55633166) (h2 : ∀ k, coeffs s rs2 k ≤ 55633166)

include h1 h2

/-- R97: the bound is what keeps the product of two transformed lanes within MMUL's bound. -/
theorem nttLoop_mul_lt {i : Nat} (hi : i < 256) :
    nttLoop (laneArray s rs1) i * nttLoop (laneArray s rs2) i < Q * 2 ^ 32 := by
  have hout {r : PReg} (h : ∀ k, coeffs s r k ≤ 55633166) : nttLoop (laneArray s r) i < 55633166 + 16 * Q :=
    nttLoop_lt (by decide) (laneArray_forall (P := (· ≤ 55633166)) h) i hi
  have hlt1 := hout h1
  have hlt2 := hout h2
  unfold Q at hlt1 hlt2
  exact mul_lt_of_factors (by omega) (.inr ⟨by omega, by omega⟩)

/-- R94 on two transforms: below 2Q, and up to MONT the value of the product at the root. -/
theorem mmulNat_nttLoop (i : Fin 256) :
    mmulNat (nttLoop (laneArray s rs1) i.val) (nttLoop (laneArray s rs2) i.val) < 2 * Q ∧
    (mmulNat (nttLoop (laneArray s rs1) i.val) (nttLoop (laneArray s rs2) i.val) * MONT : ZMod Q) =
      ∑ k : Fin 256, (negacyclic (coeffs s rs1) (coeffs s rs2) k : ZMod Q) * (omega i.val : ZMod Q) ^ k.val := by
  have hlt := nttLoop_mul_lt h1 h2 i.isLt
  refine ⟨(mmulNat_spec hlt).1, ?_⟩
  rw [mmulNat, mredcNat_mul_mont hlt, Nat.cast_mul, natCast_nttLoop_laneArray h1, natCast_nttLoop_laneArray h2,
    sum_negacyclic_mul_pow (omega_pow_256 i.val)]

/-- R97: the inverse transform finds the product's coefficients from its values, and its factor MONT is MMUL's. -/
theorem natCast_inttLoop_mmulNat {x : Nat → Nat} (k : Fin 256)
    (hx : ∀ i : Fin 256, x i.val = mmulNat (nttLoop (laneArray s rs1) i.val) (nttLoop (laneArray s rs2) i.val)) :
    (inttLoop x k.val : ZMod Q) = negacyclic (coeffs s rs1) (coeffs s rs2) k := by
  refine isUnit_256.mul_right_cancel ?_
  have hlt : ∀ i < 256, x i < 2 * Q := fun i hi => hx ⟨i, hi⟩ ▸ (mmulNat_nttLoop h1 h2 ⟨i, hi⟩).1
  calc (inttLoop x k.val * 256 : ZMod Q)
      = ∑ i : Fin 256, (x i.val * MONT : ZMod Q) * (omega i.val : ZMod Q) ^ (512 - k.val) := by
        rw [natCast_inttLoop hlt k.isLt, Finset.mul_sum, Finset.sum_range]
        exact Finset.sum_congr rfl fun i _ => by ring
    _ = ∑ i : Fin 256, (∑ j : Fin 256, (negacyclic (coeffs s rs1) (coeffs s rs2) j : ZMod Q) *
          (omega i.val : ZMod Q) ^ j.val) * (omega i.val : ZMod Q) ^ (512 - k.val) := by
        simp only [hx, (mmulNat_nttLoop h1 h2 _).2]
    _ = negacyclic (coeffs s rs1) (coeffs s rs2) k * 256 := by
        rw [sum_eval_mul_omega_fin, mul_comm]

end

/-- The lanes between P.POLYMUL's transforms. -/
theorem laneNumbers_pwmul_ntt (s : State) (rs1 rs2 : PReg) (i : Fin 256) :
    laneNumbers (pwmul (ntt (s.readP rs1)) (ntt (s.readP rs2))).toList i.val =
      mmulNat (nttLoop (laneArray s rs1) i.val) (nttLoop (laneArray s rs2) i.val) := by
  rw [← laneNumbers_readP, ← laneNumbers_readP, ← toNat_ntt, ← toNat_ntt, ← toNat_pwmul]
  simp [laneNumbers]

/-- Settles O32: before its freeze, P.POLYMUL's result is congruent to the schoolbook coefficient. -/
theorem pPolymulIsRingProduct : Obligations.PPolymulIsRingProduct := by
  intro rd rs1 rs2 s h1 h2
  refine ⟨_, rfl, fun k => ?_⟩
  rw [coeffs_polyBinary, toNat_polymul, Int.natCast_mod]
  refine (ZMod.intCast_eq_intCast_iff' _ _ Q).mp ?_
  rw [Int.cast_natCast, natCast_inttLoop_mmulNat h1 h2 k (laneNumbers_pwmul_ntt s rs1 rs2)]

end Sys2Proof.Proofs

/-! PROOFS. The housekeeping commands (44_control.md R98 to R100). -/

namespace Sys2Proof.Proofs

open Sys2Proof.Machine Sys2Proof.SpecMath

/-! ### P.ZERO (R99) -/

/-- R99: P.ZERO's coefficients are known words: 0 in P[rd], and as before everywhere else. -/
theorem coeff_zeroed (s : State) (rd q : PReg) (k : Fin 256) :
    (complete (s.writeP rd (Vector.replicate 256 0))).coeff q k = if q = rd then .written 0 else s.coeff q k := by
  rw [coeff_complete, coeff_writeP, Vector.getElem_replicate]

/-- R99: the whole of P[rd] counts as written, whatever it held before. -/
theorem exec_pZero (rd : PReg) (s : State) :
    ∃ t, exec (.pZero rd) s = .next t ∧ PolyFrame [rd] [] s t ∧ ∀ k, t.coeff rd k = .written 0 := by
  refine ⟨_, rfl, polyFrame_of_coeff (i := .pZero rd) rfl (fun _ => rfl) (coeff_zeroed s rd), fun k => ?_⟩
  rw [coeff_zeroed, if_pos rfl]

/-! ### P.COPY (R100) -/

/-- R100: P.COPY is the one-source form with the identity, so it keeps the bits of an unwritten coefficient too. -/
theorem exec_pCopy (rd rs1 : PReg) (s : State) :
    ∃ t, exec (.pCopy rd rs1) s = .next t ∧ PolyFrame [rd] [] s t ∧ ∀ k, t.readCoeff rd k = s.readCoeff rs1 k := by
  refine ⟨_, rfl, polyFrame_of_coeff (i := .pCopy rd rs1) rfl (fun _ => rfl) (coeff_polyUnary s id rd rs1),
    fun k => ?_⟩
  rw [readCoeff_polyUnary, if_pos rfl, id_eq, getElem_readP]

/-! ### The statements -/

/-- Settles O34: P.ZERO and P.COPY each write the whole of P[rd] with known words. -/
theorem pZeroAndPCopyResult : Obligations.PZeroAndPCopyResult := ⟨exec_pZero, exec_pCopy⟩

/-- Settles O33: NOP is completion, which touches neither S nor P nor the fault record. -/
theorem nopOnlyCompletes : Obligations.NopOnlyCompletes := by
  intro s
  refine ⟨complete s, rfl, ⟨exec_next (i := .nop) rfl, fun j _ => ?_, fun r k => ?_⟩, ?_⟩
  · exact readS_complete s j
  · exact coeff_complete s r k
  · exact complete_unwrittenUse s

end Sys2Proof.Proofs

/-! PROOFS. Errors (60_exceptions.md): which steps can raise one, how one is recorded and how the host clears it. -/

namespace Sys2Proof.Proofs

open Sys2Proof.Machine Sys2Proof.SpecMath

/-! ### Steps that raise no error (R101) -/

/-- From `s` to `t` neither ERR nor EOVF rises. -/
structure RaisesNoError (s t : State) : Prop where
  err : t.err = true → s.err = true
  eovf : t.eovf = true → s.eovf = true

/-- The event is a host read or a host write. -/
def IsHostAccess (e : Event) : Prop := (∃ a size, e = .read a size) ∨ ∃ a size v, e = .write a size v

/-- A command completes with the error fields as they were (R27), and an idle engine does nothing. -/
theorem engineStep_raisesNoError {s t : State} (h : engineStep s = .next t) : RaisesNoError s t := by
  obtain ⟨-, rfl⟩ | ⟨v, i, -, -, hx⟩ := engineStep_next h
  · exact ⟨id, id⟩
  · have hc := exec_next hx
    exact ⟨hc.err.symm.trans, hc.eovf.symm.trans⟩

/-- A reset or a power cycle leaves ERR and EOVF at 0 (R118). -/
theorem resetRegisters_raisesNoError (s u : State) : RaisesNoError s (resetRegisters u) := ⟨nofun, nofun⟩

/-- Every event but a host access is the engine's turn, a reset, or the release of rst_n: none of them raises an error. -/
theorem eventStep_raisesNoError {e : Event} {s t : State} (he : ¬ IsHostAccess e) (h : eventStep e s = .next t) :
    RaisesNoError s t := by
  cases e with
  | read a size => exact absurd (.inl ⟨a, size, rfl⟩) he
  | write a size v => exact absurd (.inr ⟨a, size, v, rfl⟩) he
  | engineTurn => exact engineStep_raisesNoError h
  | assertReset =>
    cases h
    obtain ⟨herr, heovf⟩ := resetRegisters_raisesNoError s (if s.busy then s.loseP (abortedDests s) else s)
    exact ⟨herr, heovf⟩
  | releaseReset =>
    cases h
    exact ⟨id, id⟩
  | powerCycle =>
    cases h
    exact resetRegisters_raisesNoError s _

/-- A step takes a host access or raises no error. -/
theorem step_hostAccess_or_raisesNoError {s t : State} (h : step s = .next t) :
    (∃ e rest, s.events = e :: rest ∧ IsHostAccess e) ∨ RaisesNoError s t := by
  obtain ⟨-, hs⟩ | ⟨e, rest, hev, hs⟩ := step_next h
  · exact .inr (engineStep_raisesNoError hs)
  · by_cases he : IsHostAccess e
    · exact .inl ⟨e, rest, hev, he⟩
    · obtain ⟨herr, heovf⟩ := eventStep_raisesNoError he hs
      exact .inr ⟨herr, heovf⟩

/-! ### The statements -/

/-- Settles O42: a step without a host access raises neither flag, so one that raises a flag has a host access. -/
theorem onlyHostAccessesRaiseErrors : Obligations.OnlyHostAccessesRaiseErrors := by
  intro s t h hraised
  obtain haccess | hno := step_hostAccess_or_raisesNoError h
  · exact haccess
  · obtain ⟨hs, ht⟩ | ⟨hs, ht⟩ := hraised
    · exact absurd (hno.err ht) (ne_true_of_eq_false hs)
    · exact absurd (hno.eovf ht) (ne_true_of_eq_false hs)

theorem raiseError_first (e : ErrCode) (info : Word) {s : State} (h : s.err = false) :
    raiseError e info s = { s with err := true, errcode := ErrCode.number e, errinfo := info } := by
  rw [raiseError, if_neg (ne_true_of_eq_false h)]

theorem raiseError_later (e : ErrCode) (info : Word) {s : State} (h : s.err = true) :
    raiseError e info s = { s with eovf := true } := by
  rw [raiseError, if_pos h]

/-- Settles O44: ERR alone decides which of its two branches `raiseError` takes. -/
theorem errorRecording : Obligations.ErrorRecording :=
  ⟨fun e info _ => ⟨raiseError_first e info, raiseError_later e info⟩, rfl, rfl, rfl, rfl, rfl, rfl⟩

/-- Settles O55: STATUS is no register file, so its write is never refused and acts by `writeStatus`. -/
theorem statusWriteClears : Obligations.StatusWriteClears := by
  intro s v
  rw [hostWrite_of_target v target_status (by decide) (.inr rfl), writeTarget, writeStatus_eq]

end Sys2Proof.Proofs

/-! PROOFS. Reset (70_reset_and_hazards.md): the state after power-on, the soft reset, the hardware reset with its
release, and a power cycle. -/

namespace Sys2Proof.Proofs

open Sys2Proof.Machine Sys2Proof.SpecMath

/-! ### The state after power-on and reset (R118) -/

/-- A reset finds nothing to change in the registers of `State.reset`. -/
theorem resetRegisters_reset : resetRegisters State.reset = State.reset := rfl

theorem reset_HasResetValues : State.reset.HasResetValues :=
  resetRegisters_reset ▸ resetRegisters_HasResetValues State.reset

theorem reset_ErrorFieldsAgree : State.reset.ErrorFieldsAgree :=
  resetRegisters_reset ▸ resetRegisters_ErrorFieldsAgree State.reset

theorem coeff_reset (r : PReg) (k : Fin 256) : State.reset.coeff r k = .unwritten 0 := by
  simp [State.coeff, State.reset]

/-! ### The P file after a reset (R117, R118) -/

/-- The statement's list of each command's polynomial destinations is the model's. -/
theorem polyDestinations_eq_polyDests (i : Instr) : polyDestinations i = polyDests i := by
  cases i <;> rfl

theorem resetBlock_pregs (s : State) :
    (resetBlock s).pregs = if s.busy then (s.loseP (abortedDests s)).pregs else s.pregs := by
  unfold resetBlock
  split <;> rfl

/-- What a reset does to the P file depends on the engine and the P file alone, not on the pending events. -/
theorem resetBlock_pregs_with_events (s : State) (es : List Event) :
    (resetBlock { s with events := es }).pregs = (resetBlock s).pregs := by
  rw [resetBlock_pregs, resetBlock_pregs]
  rfl

/-- The write of CTRL with SRST set is a reset, whatever else the word holds, busy or not (R116). -/
theorem hostWrite_ctrl_softReset {v : Word} (hv : v.getLsbD 31 = true) (s : State) :
    hostWrite 0x000C 4 v s = resetBlock s := by
  rw [hostWrite_ctrl, writeCtrl, if_pos hv]

/-- Losing the whole P file leaves every coefficient unwritten (R114). -/
theorem coeff_powerCycle (s : State) (r : PReg) (k : Fin 256) :
    (powerCycle s).coeff r k = .unwritten s.unspecCount := by
  rw [powerCycle, coeff_resetRegisters, coeff_loseP, if_pos (List.mem_finRange r)]

/-! ### Host accesses while rst_n is low (R115) -/

theorem eventStep_read_inReset {s : State} (h : s.inReset = true) (a : Addr) (size : Nat) :
    eventStep (.read a size) s = .next s := by
  rw [eventStep, if_pos h]

theorem eventStep_write_inReset {s : State} (h : s.inReset = true) (a : Addr) (size : Nat) (v : Word) :
    eventStep (.write a size v) s = .next s := by
  rw [eventStep, if_pos h]

/-! ### The statements -/

/-- Settles O38: every register of `State.reset` has its reset value, which gives the invariant. -/
theorem invariantAtReset : Obligations.InvariantAtReset :=
  Inv_of_HasResetValues reset_ErrorFieldsAgree reset_HasResetValues

/-- Settles O57: the registers of `State.reset` are those that a reset leaves, and its P file is unwritten. -/
theorem resetStateValues : Obligations.ResetStateValues :=
  ⟨reset_HasResetValues, fun r k => by rw [coeff_reset, Coeff.isUnwritten]⟩

/-- Settles O58: the write is a reset, which leaves exactly the destinations of a command in progress unwritten. -/
theorem softResetEffect : Obligations.SoftResetEffect := by
  intro s v hv
  rw [hostWrite_ctrl_softReset hv]
  refine ⟨resetBlock_HasResetValues s, resetBlock_pregs_idle, fun w i hb hd r k => ?_⟩
  rw [coeff_resetBlock_busy hb hd, polyDestinations_eq_polyDests]
  refine ⟨fun hr => ?_, fun hr => if_neg hr⟩
  rw [if_pos hr, Coeff.isUnwritten]

/-- Settles O59: the step is the event, and each kind of event has its own lemma; the release finds the reset values
that the invariant keeps while rst_n is low. -/
theorem hardResetAndPowerCycle : Obligations.HardResetAndPowerCycle := by
  intro s rest
  refine ⟨fun hev => ⟨_, step_of_event hev, ?_, rfl, ?_, resetBlock_events _⟩, fun hlow a size v hev => ?_,
    fun hev => ⟨step_of_event hev, fun hlow hinv => ⟨_, step_of_event hev, ?_⟩⟩,
    fun hev => ⟨_, step_of_event hev, powerCycle_HasResetValues _, fun r k => ?_⟩⟩
  · exact HasResetValues_outside (resetBlock_HasResetValues { s with events := rest }) _ true
  · rw [hostWrite_ctrl_softReset (by decide)]
    exact resetBlock_pregs_with_events s rest
  · obtain hev | hev := hev
    · exact (step_of_event hev).trans (eventStep_read_inReset (s := { s with events := rest }) hlow a size)
    · exact (step_of_event hev).trans (eventStep_write_inReset (s := { s with events := rest }) hlow a size v)
  · exact HasResetValues_outside (hinv.resetValues hlow) rest false
  · rw [coeff_powerCycle, Coeff.isUnwritten]

end Sys2Proof.Proofs
